-- ==== Sys2Proof/Word.lean ====
section
/-! DEFINITION. The value types of the block: bytes, 32-bit host words, words of four bytes, 16-byte values, and their bytewise XOR (00_scope R8 to R11, 40_primitives R96, R104). -/

namespace Sys2Proof

/-- A byte: bit i is the coefficient of x^i when it is read as a field element (00_scope R8, 40_primitives R85). -/
abbrev Byte := BitVec 8

/-- A 32-bit value as a host access carries it (20_memory R52). -/
abbrev HostWord := BitVec 32

/-- A word of four bytes, `a0` its first byte (00_scope R10). -/
structure ByteWord where
  a0 : Byte
  a1 : Byte
  a2 : Byte
  a3 : Byte
deriving DecidableEq, Repr

/-- A 16-byte value: word k holds bytes 4k to 4k+3, and is column k of the AES state (00_scope R9, R10, R11). -/
structure Block where
  w0 : ByteWord
  w1 : ByteWord
  w2 : ByteWord
  w3 : ByteWord
deriving DecidableEq, Repr

/-- Byte r of a word. -/
def ByteWord.get (w : ByteWord) (r : Fin 4) : Byte :=
  match r with
  | 0 => w.a0
  | 1 => w.a1
  | 2 => w.a2
  | 3 => w.a3

/-- The word whose byte r is `f r`. -/
def ByteWord.ofFn (f : Fin 4 → Byte) : ByteWord := ⟨f 0, f 1, f 2, f 3⟩

/-- The word with every byte mapped by `f`. -/
def ByteWord.map (f : Byte → Byte) (w : ByteWord) : ByteWord := ⟨f w.a0, f w.a1, f w.a2, f w.a3⟩

/-- Word XOR, byte by byte (40_primitives R96). -/
def ByteWord.xor (a b : ByteWord) : ByteWord := ⟨a.a0 ^^^ b.a0, a.a1 ^^^ b.a1, a.a2 ^^^ b.a2, a.a3 ^^^ b.a3⟩

/-- `word(v, k)`, which is also column k of the state (00_scope R10, R11). -/
def Block.word (v : Block) (k : Fin 4) : ByteWord :=
  match k with
  | 0 => v.w0
  | 1 => v.w1
  | 2 => v.w2
  | 3 => v.w3

/-- The state byte `s[r, c]` of row r and column c, which is `s.b[r + 4c]` (00_scope R11). -/
def Block.rc (s : Block) (r c : Fin 4) : Byte := (s.word c).get r

/-- Byte n of a 16-byte value, in row n mod 4 and column n div 4 (00_scope R9, R11). -/
def Block.byte (v : Block) (n : Fin 16) : Byte := v.rc ⟨n.val % 4, by omega⟩ ⟨n.val / 4, by omega⟩

/-- The 16-byte value whose state byte in row r and column c is `f r c`. -/
def Block.ofRowCol (f : Fin 4 → Fin 4 → Byte) : Block :=
  ⟨.ofFn (f · 0), .ofFn (f · 1), .ofFn (f · 2), .ofFn (f · 3)⟩

/-- The 16-byte value with every word mapped by `f`. -/
def Block.mapWords (f : ByteWord → ByteWord) (v : Block) : Block := ⟨f v.w0, f v.w1, f v.w2, f v.w3⟩

/-- The 16-byte value with every byte mapped by `f`: one lane a byte (40_primitives R106). -/
def Block.map (f : Byte → Byte) (v : Block) : Block := v.mapWords (ByteWord.map f)

/-- Bytewise XOR of 16-byte values (00_scope R12); with a round key it is AddRoundKey (40_primitives R104). -/
def Block.xor (a b : Block) : Block := ⟨a.w0.xor b.w0, a.w1.xor b.w1, a.w2.xor b.w2, a.w3.xor b.w3⟩

end Sys2Proof
end

