-- ==== Sys2Proof/Config.lean ====
section
/-! DEFINITION. What an implementation of the block fixes: the parameters the spec leaves open (00_scope R7). No rule leaves a result undefined, so there is no free value. -/

namespace Sys2Proof

/-- The parameters of one implementation (00_scope R7), each legal by its type.
A state carries them as plain data and no step changes them, so that a statement over every state holds for every legal choice.
`BUS_PROTOCOL` is left out: no rule reads it (00_scope R4, log 21). -/
structure Params where
  /-- `BASE` in units of 256 bytes: BASE is aligned to 256. -/
  basePage : Nat
  /-- `U_EXP - 1`: key-expander iterations a core step makes, 1..10. -/
  uExpLess1 : Fin 10
  /-- `U_SEQ - 1`: round-sequencer iterations a core step makes, 1..10. -/
  uSeqLess1 : Fin 10
deriving DecidableEq, Repr

/-- `BASE`: the host-bus address of window offset 0x000 (00_scope R7, 20_memory R55). -/
def Params.base (p : Params) : Nat := 256 * p.basePage

/-- `U_EXP` (00_scope R7). -/
def Params.uExp (p : Params) : Nat := p.uExpLess1.val + 1

/-- `U_SEQ` (00_scope R7). -/
def Params.uSeq (p : Params) : Nat := p.uSeqLess1.val + 1

/-- The window at address 0, and the recommended one iteration a core step (00_scope R7). DESIGN CHOICE (log 4, unsafe): the spec recommends U_EXP = U_SEQ = 1 and leaves BASE to the platform. -/
def Params.recommended : Params := ⟨0, 0, 0⟩

end Sys2Proof
end

