-- ==== Sys2Proof/Syntax.lean ====
section
/-! DEFINITION. The block's operations: commands, micro-operations and host transactions (30_encoding R67), the encoded forms they are read from, and the lines of host scripts (30_encoding R81, R82; 44_host_access R152 to R154). -/

namespace Sys2Proof

/-- Every operation of spec/opcode_table.json, one constructor for each mnemonic.
Rows of the table that share a mnemonic differ only in the range of the operand. -/
inductive Instr where
  /-- CLEAR: command word 0 (44_host_access R142). -/
  | clear
  /-- EXPAND: command word 1 (41_key_expansion R114). -/
  | expand
  /-- ENCRYPT: command word 2 (42_encrypt R124). -/
  | encrypt
  /-- DECRYPT: command word 3 (43_decrypt R133). -/
  | decrypt
  /-- ILLEGAL_CMD: a command word with RSVD = 0 and the reserved code `cmd` in 0x4..0xF (44_host_access R143). -/
  | illegalCmd (cmd : BitVec 4)
  /-- RSVD_BITS: a command word whose reserved bits `rsvd` are not all zero, whatever its code (44_host_access R144). -/
  | rsvdBits (rsvd : BitVec 28) (cmd : BitVec 4)
  /-- EXP_FIRST: MODE = EXPAND, RND = 0 (41_key_expansion R115). -/
  | expFirst
  /-- EXP_NEXT: MODE = EXPAND, RND = r in 1..8 (41_key_expansion R116). -/
  | expNext (r : BitVec 4)
  /-- EXP_LAST: MODE = EXPAND, RND = 9 (41_key_expansion R117). -/
  | expLast
  /-- ENC_FIRST: MODE = ENCRYPT, RND = 0 (42_encrypt R125). -/
  | encFirst
  /-- ENC_MID: MODE = ENCRYPT, RND = r in 1..8 (42_encrypt R126). -/
  | encMid (r : BitVec 4)
  /-- ENC_LAST: MODE = ENCRYPT, RND = 9 (42_encrypt R127). -/
  | encLast
  /-- DEC_FIRST: MODE = DECRYPT, RND = 0 (43_decrypt R134). -/
  | decFirst
  /-- DEC_MID: MODE = DECRYPT, RND = r in 1..8 (43_decrypt R135). -/
  | decMid (r : BitVec 4)
  /-- DEC_LAST: MODE = DECRYPT, RND = 9 (43_decrypt R136). -/
  | decLast
  /-- UNREACHABLE: MODE not IDLE with RND in 10..15 (30_encoding R77). -/
  | unreachable (mode : BitVec 2) (rnd : BitVec 4)
  /-- NO_STEP: MODE = IDLE with any RND (10_state R31, 30_encoding R75). -/
  | noStep (rnd : BitVec 4)
  /-- RD32: a host read of `size` bytes at window offset `off` (44_host_access R139). -/
  | rd32 (off : BitVec 8) (size : Nat)
  /-- WR32: a host write of `size` bytes at window offset `off` (44_host_access R140, R141). -/
  | wr32 (off : BitVec 8) (size : Nat) (wdata : HostWord)
deriving DecidableEq, Repr

/-- The direction of a host access (30_encoding R78). -/
inductive Dir where
  | read
  | write
deriving DecidableEq, Repr

/-- A host transaction at the block's port, `off` being the address minus BASE (30_encoding R78). `wdata` is meant only for a write. -/
structure Transaction where
  dir : Dir
  off : BitVec 8
  size : Nat
  wdata : HostWord
deriving DecidableEq, Repr

/-- An access as a bus master makes it, by host-bus address: `MemRead(addr, size)` or `MemWrite(addr, size, wdata)` (00_scope R12). -/
structure Access where
  dir : Dir
  addr : Nat
  size : Nat
  wdata : HostWord
deriving DecidableEq, Repr

/-- The three kinds of encoded operation (30_encoding R67), as words. -/
inductive Encoded where
  /-- The value written to CTRL (30_encoding R68). -/
  | command (v : BitVec 32)
  /-- The internal word MODE ++ RND (30_encoding R74). -/
  | microOp (u : BitVec 6)
  /-- The request ports of a transaction, req_wdata ++ req_size ++ req_off ++ req_write (30_encoding R79). DESIGN CHOICE (log 13, safe): the spec gives the ports' widths and no order among them. -/
  | transaction (t : BitVec 44)
deriving DecidableEq, Repr

/-- A 32-bit host-side variable (30_encoding R81, R82). The spec writes names; the model numbers those that a program chooses. -/
inductive HostVar where
  /-- `s`, the variable that WAIT's expansion reads STATUS into. -/
  | s
  /-- A 32-bit variable of the program. -/
  | scalar (name : Nat)
  /-- `d.w[k]`, a word of a 16-byte variable of the program. -/
  | word (d : Nat) (k : Fin 4)
deriving DecidableEq, Repr

/-- The value operand of a script line: a literal, or a host-side variable assigned before (30_encoding R81). -/
inductive Operand where
  | lit (x : HostWord)
  | var (name : HostVar)
deriving DecidableEq, Repr

/-- A call of the host driver, with the source's buffers as byte lists (44_host_access R152 to R154). -/
inductive DriverCall where
  | expandKey128 (key : List Byte)
  | encrypt (key : List Byte) (sched : List (List Byte)) (rounds : BitVec 32) (input : List Byte)
  | decrypt (key : List Byte) (sched : List (List Byte)) (rounds : BitVec 32) (input : List Byte)
deriving DecidableEq, Repr

/-- The driver's errors, results of a call and not codes of the block (44_host_access R155). -/
inductive DriverError where
  | invalidLength
  | invalidKeyLength
deriving DecidableEq, Repr

/-- What a driver call returns (44_host_access R152 to R155). -/
inductive DriverResult where
  | schedule (roundKeys : List (List Byte))
  | bytes (out : List Byte)
  | error (e : DriverError)
deriving DecidableEq, Repr

/-- One line of a host script (30_encoding R81, R82). -/
inductive HostLine where
  /-- `WR32 off, x`. -/
  | wr32 (off : BitVec 8) (x : Operand)
  /-- `RD32 off -> name`. -/
  | rd32 (off : BitVec 8) (name : HostVar)
  /-- The read of one result word by the driver, whose bytes it appends to its output. -/
  | rdOut (off : BitVec 8)
  /-- `WAIT`, which is `loop: RD32 0x004 -> s; if s[0] == 1 goto loop` (30_encoding R82, 44_host_access R150). -/
  | wait
  /-- A call of the driver. -/
  | call (c : DriverCall)
  /-- The end of a driver Encrypt or Decrypt: return the output bytes. -/
  | retBytes
  /-- The end of a driver ExpandKey128: return the output as ten round keys. -/
  | retSchedule
deriving DecidableEq, Repr

/-- One event (20_memory R57, 60_exceptions R166). -/
inductive Event where
  /-- The modelled host issues the next line of its script. -/
  | host
  /-- Another bus master makes an access (20_memory R64). -/
  | access (a : Access)
  /-- The core takes a step, if it has one (44_host_access R149). -/
  | core
  /-- The reset input (70_reset_and_hazards R177). -/
  | reset
deriving DecidableEq, Repr

/-- The mnemonic of spec/opcode_table.json. -/
def Instr.mnemonic : Instr → String
  | .clear => "CLEAR"
  | .expand => "EXPAND"
  | .encrypt => "ENCRYPT"
  | .decrypt => "DECRYPT"
  | .illegalCmd _ => "ILLEGAL_CMD"
  | .rsvdBits _ _ => "RSVD_BITS"
  | .expFirst => "EXP_FIRST"
  | .expNext _ => "EXP_NEXT"
  | .expLast => "EXP_LAST"
  | .encFirst => "ENC_FIRST"
  | .encMid _ => "ENC_MID"
  | .encLast => "ENC_LAST"
  | .decFirst => "DEC_FIRST"
  | .decMid _ => "DEC_MID"
  | .decLast => "DEC_LAST"
  | .unreachable _ _ => "UNREACHABLE"
  | .noStep _ => "NO_STEP"
  | .rd32 _ _ => "RD32"
  | .wr32 _ _ _ => "WR32"

/-- The iteration number RND of a micro-operation that performs one, and none for any other operation (30_encoding R75). -/
def Instr.iteration? : Instr → Option Nat
  | .expFirst | .encFirst | .decFirst => some 0
  | .expNext r | .encMid r | .decMid r => some r.toNat
  | .expLast | .encLast | .decLast => some 9
  | .clear | .expand | .encrypt | .decrypt | .illegalCmd _ | .rsvdBits _ _ => none
  | .unreachable _ _ | .noStep _ | .rd32 _ _ | .wr32 _ _ _ => none

/-- The line of a micro-operation trace, `<micro-operation> r=<RND>` (30_encoding R83). -/
def Instr.traceLine? (i : Instr) : Option String := i.iteration?.map fun r => i.mnemonic ++ " r=" ++ toString r

end Sys2Proof
end

