-- ==== Sys2Proof/WellFormed.lean ====
section
/-! DEFINITION. Which operations are well formed: the operand ranges of spec/opcode_table.json's rows. -/

namespace Sys2Proof

/-- The iteration operand of EXP_NEXT, ENC_MID and DEC_MID lies in 1..8 (30_encoding R75). -/
def midRound (r : BitVec 4) : Bool := decide (1 ≤ r.toNat) && decide (r.toNat ≤ 8)

/-- A legal access: four bytes at an offset that is a multiple of four (30_encoding R78). -/
def legalAccess (off : BitVec 8) (size : Nat) : Bool := decide (size = 4) && decide (off.toNat % 4 = 0)

/-- The operand checks, one for each constructor that has operands.
A write at offset 0 is a command and no WR32 row (44_host_access R141). -/
def Instr.wf : Instr → Bool
  | .clear => true
  | .expand => true
  | .encrypt => true
  | .decrypt => true
  | .illegalCmd cmd => decide (4 ≤ cmd.toNat)
  | .rsvdBits rsvd _ => decide (rsvd ≠ 0)
  | .expFirst => true
  | .expNext r => midRound r
  | .expLast => true
  | .encFirst => true
  | .encMid r => midRound r
  | .encLast => true
  | .decFirst => true
  | .decMid r => midRound r
  | .decLast => true
  | .unreachable mode rnd => decide (mode ≠ 0) && decide (10 ≤ rnd.toNat)
  | .noStep _ => true
  | .rd32 off size => legalAccess off size
  | .wr32 off size _ => legalAccess off size && decide (off ≠ 0)

/-- The operation is one of the opcode table's rows. -/
abbrev WellFormed (i : Instr) : Prop := i.wf = true

end Sys2Proof
end

