-- ==== Sys2Proof/Decode.lean ====
section
/-! DEFINITION. Decoding of command words, micro-operation words and host transactions, total on every word (30_encoding R70, R75, R78), and the encoder. -/

namespace Sys2Proof

/-- Command decoding: the reserved bits first, then the code (30_encoding R70). -/
def decodeCommand (v : BitVec 32) : Instr :=
  let rsvd := v.extractLsb' 4 28
  let cmd := v.extractLsb' 0 4
  if rsvd ≠ 0 then .rsvdBits rsvd cmd
  else if 4 ≤ cmd.toNat then .illegalCmd cmd
  else if cmd = 0 then .clear
  else if cmd = 1 then .expand
  else if cmd = 2 then .encrypt
  else .decrypt

/-- The micro-operation of a running mode at iteration `rnd`: `first` at 0, `mid` at 1..8, `last` at 9, and unreachable above (30_encoding R75). -/
def decodeRound (mode : BitVec 2) (rnd : BitVec 4) (first : Instr) (mid : BitVec 4 → Instr) (last : Instr) : Instr :=
  if rnd = 0 then first
  else if rnd.toNat ≤ 8 then mid rnd
  else if rnd = 9 then last
  else .unreachable mode rnd

/-- Micro-operation decoding of UOP = MODE ++ RND (30_encoding R74, R75). -/
def decodeMicroOp (u : BitVec 6) : Instr :=
  let mode := u.extractLsb' 4 2
  let rnd := u.extractLsb' 0 4
  if mode = 0 then .noStep rnd
  else if mode = 1 then decodeRound mode rnd .expFirst .expNext .expLast
  else if mode = 2 then decodeRound mode rnd .encFirst .encMid .encLast
  else decodeRound mode rnd .decFirst .decMid .decLast

/-- The operation of a host transaction: a 32-bit write at offset 0 is a command, any other access a read or a write (44_host_access R139 to R141).
An access of a bad size or offset is still an operation: the block answers it with F_ACCESS. -/
def decodeTransaction (t : Transaction) : Instr :=
  match t.dir with
  | .read => .rd32 t.off t.size
  | .write => if t.off = 0 ∧ t.size = 4 then decodeCommand t.wdata else .wr32 t.off t.size t.wdata

/-- The transaction on the request ports, req_wdata ++ req_size ++ req_off ++ req_write (30_encoding R79). -/
def Transaction.ofPorts (t : BitVec 44) : Transaction where
  dir := if t.extractLsb' 0 1 = 1 then .write else .read
  off := t.extractLsb' 1 8
  size := (t.extractLsb' 9 3).toNat
  wdata := t.extractLsb' 12 32

/-- The request ports that present a read, req_wdata being 0, or a write. The size must fit req_size's three bits. -/
def portsOf (write : BitVec 1) (off : BitVec 8) (size : Nat) (wdata : HostWord) : BitVec 44 :=
  wdata ++ BitVec.ofNat 3 size ++ off ++ write

/-- The operation an encoded word stands for. -/
def decode : Encoded → Instr
  | .command v => decodeCommand v
  | .microOp u => decodeMicroOp u
  | .transaction t => decodeTransaction (.ofPorts t)

/-- Why a string of bits is no encoded operation. -/
inductive DecodeError where
  /-- Not the length of any kind of operation: 8 bits hold a micro-operation word, 32 a command, 48 a transaction. -/
  | badLength
  /-- The number does not fit the length given. -/
  | tooWide
  /-- A bit above a 6-bit micro-operation word is set. -/
  | microOpPadding
  /-- A bit above the 44 port bits of a transaction is set. -/
  | transactionPadding
deriving DecidableEq, Repr

/-- Decoding of `nbits` bits, bit 0 the least significant, in whole bytes. -/
def decodeBits (nbits w : Nat) : Except DecodeError Instr :=
  if 2 ^ nbits ≤ w then .error .tooWide
  else if nbits = 8 then
    if 2 ^ 6 ≤ w then .error .microOpPadding else .ok (decode (.microOp (BitVec.ofNat 6 w)))
  else if nbits = 32 then .ok (decode (.command (BitVec.ofNat 32 w)))
  else if nbits = 48 then
    if 2 ^ 44 ≤ w then .error .transactionPadding else .ok (decode (.transaction (BitVec.ofNat 44 w)))
  else .error .badLength

/-- The number a list of bytes holds, its first byte least significant. -/
def leValue : List Byte → Nat
  | [] => 0
  | b :: bs => b.toNat + 256 * leValue bs

/-- Decoding of any bytes, the first one least significant. -/
def decodeBytes (bs : List Byte) : Except DecodeError Instr := decodeBits (8 * bs.length) (leValue bs)

/-- The operation of a row of the opcode table whose bits are `w`. -/
def decodeTableWord (nbits w : Nat) : Option Instr := (decodeBits nbits w).toOption

/-- The encoded word of an operation (30_encoding R69, R75, R78). -/
def encode : Instr → Encoded
  | .clear => .command 0x00000000
  | .expand => .command 0x00000001
  | .encrypt => .command 0x00000002
  | .decrypt => .command 0x00000003
  | .illegalCmd cmd => .command ((0 : BitVec 28) ++ cmd)
  | .rsvdBits rsvd cmd => .command (rsvd ++ cmd)
  | .expFirst => .microOp 0b010000
  | .expNext r => .microOp (0b01#2 ++ r)
  | .expLast => .microOp 0b011001
  | .encFirst => .microOp 0b100000
  | .encMid r => .microOp (0b10#2 ++ r)
  | .encLast => .microOp 0b101001
  | .decFirst => .microOp 0b110000
  | .decMid r => .microOp (0b11#2 ++ r)
  | .decLast => .microOp 0b111001
  | .unreachable mode rnd => .microOp (mode ++ rnd)
  | .noStep rnd => .microOp (0b00#2 ++ rnd)
  | .rd32 off size => .transaction (portsOf 0 off size 0)
  | .wr32 off size wdata => .transaction (portsOf 1 off size wdata)

/-- The length of an encoded word: 32 bits for a command, 6 for a micro-operation, 44 for the ports of a transaction (30_encoding R67, R74, R79). -/
def Encoded.bitLength : Encoded → Nat
  | .command _ => 32
  | .microOp _ => 6
  | .transaction _ => 44

/-- The length the opcode table's format gives an operation's word: CMD32, UOP6 or HOST_TRANSACTION (30_encoding R67). -/
def Instr.bitLength : Instr → Nat
  | .clear | .expand | .encrypt | .decrypt | .illegalCmd _ | .rsvdBits _ _ => 32
  | .expFirst | .expNext _ | .expLast | .encFirst | .encMid _ | .encLast => 6
  | .decFirst | .decMid _ | .decLast | .unreachable _ _ | .noStep _ => 6
  | .rd32 _ _ | .wr32 _ _ _ => 44

end Sys2Proof
end

