-- ==== Sys2Proof/Machine/State.lean ====
section
/-! DEFINITION. The machine's state as plain data (10_state R20), the names of the model faults, the refusals, and the state at power-on. -/

namespace Sys2Proof.Machine

/-- MODE: the operation in progress (10_state R28). -/
inductive Mode where
  | idle
  | expand
  | encrypt
  | decrypt
deriving DecidableEq, Repr

/-- A 16-byte host-visible register as four host words, each written or unwritten: `none` is the spec's own state "unwritten", which holds no value (10_state R26, log 2). -/
abbrev Reg := Vector (Option HostWord) 4

/-- The hardware state of one block (10_state R20). -/
structure Chip where
  /-- KEY (10_state R21). -/
  key : Reg
  /-- RK[0..9] (10_state R22). -/
  rk : Vector Reg 10
  /-- DIN (10_state R23). -/
  din : Reg
  /-- DOUT (10_state R24). -/
  dout : Reg
  /-- ST, written or unwritten as a whole (10_state R25, R26). -/
  st : Option Block
  /-- MODE (10_state R28). -/
  mode : Mode
  /-- RND, the sequencer's program counter (10_state R29, R30). -/
  rnd : BitVec 4
  /-- BUSY (10_state R31). -/
  busy : Bool
  /-- KSV (10_state R32). -/
  ksv : Bool
  /-- ERR (10_state R33). -/
  err : BitVec 4
deriving DecidableEq, Repr

/-- The names of the model faults (60_exceptions R161).
Every one is RECORDED in `State.faults` by a next state, as R161 and R162 say, and no step ends with one as its outcome (log 1). -/
inductive Fault where
  /-- F_ACCESS. Raised by RD32 and WR32: a size other than 4, a misaligned or unmapped offset, a write to STATUS or DOUT. Safe: the block is unchanged and a run that holds it is never good. -/
  | access
  /-- F_BUSY. Raised by RD32, WR32 and every command while BUSY = 1, but for a STATUS read. Unsafe where a statement is about the block after it: the spec does not decide what the chip does. -/
  | busy
  /-- F_UNWRITTEN. Raised by RD32 of an unwritten word, by EXPAND, ENCRYPT and DECRYPT with an unwritten operand, and by a micro-operation in a state no run reaches. Unsafe where a statement is about the block after it: the chip would use power-up values. -/
  | unwritten
deriving DecidableEq, Repr

/-- Why a step has no meaning. The spec's own refusals are the bit `State.refused` (60_exceptions R163), not this type. -/
inductive Refusal where
  /-- An instruction with no meaning yet. Raised by no arm of exec. Safe: nothing can be proved of what follows. -/
  | notModelled (mnemonic : String)
  /-- A term of `Instr` that is no row of the opcode table: EXP_NEXT, ENC_MID or DEC_MID with an iteration outside 1..8. Raised by those three meanings. Safe: no word decodes to such a term (log 22). -/
  | illFormed (mnemonic : String)
deriving DecidableEq, Repr

/-- FAULTS: the set of the names recorded (10_state R37). -/
structure FaultSet where
  access : Bool
  busy : Bool
  unwritten : Bool
deriving DecidableEq, Repr

/-- The response to a host access: its read data, if it returns a value, and the ERROR response (30_encoding R78, R79). -/
structure Response where
  rdata : Option HostWord
  error : Bool
deriving DecidableEq, Repr

/-- The modelled host: a script of accesses and driver calls, and what it has gathered (30_encoding R81, R82; 44_host_access R150 to R155). -/
structure HostAgent where
  /-- The lines still to issue, the next one first. -/
  script : List HostLine
  /-- The variables assigned so far, each once. -/
  vars : List (HostVar × HostWord)
  /-- The output buffer of the driver call under way. -/
  out : List Byte
  /-- The results of the driver calls that have returned, oldest first. -/
  results : List DriverResult
  /-- An EXPAND, ENCRYPT or DECRYPT of this host was accepted and the host has not read BUSY = 0 since (44_host_access R150, log 23). -/
  waiting : Bool
  /-- The program met a fault and does not continue past it (60_exceptions R162). -/
  halted : Bool
deriving DecidableEq, Repr

/-- The whole machine: the block, the model-only marks, its response port, its parameters, the host, and the order in which events fall. -/
structure State where
  chip : Chip
  /-- FAULTS (10_state R37). -/
  faults : FaultSet
  /-- REFUSED (10_state R38). -/
  refused : Bool
  /-- The response to the latest host access, none where it got none (30_encoding R78, log 9). -/
  rsp : Option Response
  /-- The implementation's parameters, which no step changes (00_scope R7, log 4). -/
  params : Params
  host : HostAgent
  /-- The events to come, the next one first: any order the spec admits (44_host_access R148, log 3). -/
  agenda : List Event
deriving DecidableEq, Repr

/-- A register none of whose words is written. -/
def Reg.unwritten : Reg := #v[none, none, none, none]

/-- The block after reset (10_state R41). -/
def Chip.reset : Chip where
  key := .unwritten
  rk := Vector.replicate 10 .unwritten
  din := .unwritten
  dout := .unwritten
  st := none
  mode := .idle
  rnd := 0
  busy := false
  ksv := false
  err := 0

/-- The empty set of faults. -/
def FaultSet.none : FaultSet := ⟨false, false, false⟩

/-- A host with nothing to do. DESIGN CHOICE (log 10, safe): the spec gives no program. -/
def HostAgent.idle : HostAgent := ⟨[], [], [], [], false, false⟩

/-- Power-on, which is the launch premise CLEAN_ENTRY (70_reset_and_hazards R178, R179), with no program and the recommended parameters. -/
def State.reset : State where
  chip := .reset
  faults := .none
  refused := false
  rsp := Option.none
  params := .recommended
  host := .idle
  agenda := []

end Sys2Proof.Machine
end

