-- ==== Sys2Proof/Machine/Flags.lean ====
section
/-! DEFINITION. The status fields and how they change: MODE's code, STATUS, ERR, KSV, and the sets FAULTS (10_state R28 to R34, R37; 60_exceptions R158, R159). -/

namespace Sys2Proof.Machine

/-- MODE's two bits (10_state R28). -/
def Mode.bits : Mode → BitVec 2
  | .idle => 0b00
  | .expand => 0b01
  | .encrypt => 0b10
  | .decrypt => 0b11

/-- The mode of two bits (10_state R28). -/
def Mode.ofBits (b : BitVec 2) : Mode :=
  if b = 0b00 then .idle else if b = 0b01 then .expand else if b = 0b10 then .encrypt else .decrypt

/-- STATUS = zext_32(MODE ++ RND ++ ERR ++ 0b00 ++ KSV ++ BUSY) (10_state R34). -/
def Chip.statusWord (c : Chip) : HostWord :=
  (c.mode.bits ++ c.rnd ++ c.err ++ 0b00#2 ++ BitVec.ofBool c.ksv ++ BitVec.ofBool c.busy).setWidth 32

/-- UOP = MODE ++ RND (30_encoding R74). -/
def Chip.uop (c : Chip) : BitVec 6 := c.mode.bits ++ c.rnd

/-- ERR code ILLEGAL_CMD (60_exceptions R158). -/
def errIllegalCmd : BitVec 4 := 1

/-- ERR code RSVD_BITS (60_exceptions R158). -/
def errRsvdBits : BitVec 4 := 2

/-- `set_error(code)`: the first code is kept (60_exceptions R159). -/
def Chip.setError (c : Chip) (code : BitVec 4) : Chip := if c.err = 0 then { c with err := code } else c

/-- CLEAR's effect, `ERR <- 0` (44_host_access R142). -/
def Chip.clearErr (c : Chip) : Chip := { c with err := 0 }

/-- `KSV <- b` (10_state R32). -/
def Chip.setKsv (c : Chip) (b : Bool) : Chip := { c with ksv := b }

/-- FAULTS with one more name (10_state R37). -/
def FaultSet.insert (fs : FaultSet) : Fault → FaultSet
  | .access => { fs with access := true }
  | .busy => { fs with busy := true }
  | .unwritten => { fs with unwritten := true }

/-- A name is in FAULTS. -/
def FaultSet.has (fs : FaultSet) : Fault → Bool
  | .access => fs.access
  | .busy => fs.busy
  | .unwritten => fs.unwritten

end Sys2Proof.Machine
end

