-- ==== Sys2Proof/Machine/Primitives.lean ====
section
/-! DEFINITION. Arithmetic in GF(2^8), the word operations of the key expander and the round transforms (40_primitives R85 to R104). All are total and write no state (R105, R110). -/

namespace Sys2Proof.Machine

/-- Multiplication by 2 in GF(2^8) (40_primitives R87). -/
def xtime (a : Byte) : Byte := (a <<< 1) ^^^ (if a.getLsbD 7 then 0x1B else 0x00)

/-- `n` more rounds of the shift-and-add loop of `gmul`, with the operands and the result so far (40_primitives R88). -/
def gmulLoop : Nat → Byte → Byte → Byte → Byte
  | 0, _, _, r => r
  | n + 1, a, b, r => gmulLoop n (xtime a) (b >>> 1) (if b.getLsbD 0 then r ^^^ a else r)

/-- The product in GF(2^8) (40_primitives R88). -/
def gmul (a b : Byte) : Byte := gmulLoop 8 a b 0

/-- The multiplicative inverse, computed as a^254, with `ginv 0 = 0` (40_primitives R88); the law that gives its meaning is `gmul a (ginv a) = 1` for a not 0. -/
def ginv (a : Byte) : Byte :=
  let a2 := gmul a a
  let a3 := gmul a2 a
  let a6 := gmul a3 a3
  let a12 := gmul a6 a6
  let a15 := gmul a12 a3
  let a30 := gmul a15 a15
  let a60 := gmul a30 a30
  let a120 := gmul a60 a60
  let a126 := gmul a120 a6
  let a127 := gmul a126 a
  gmul a127 a127

/-- The affine map of the S-box's definition: bit i is b[i] xor b[i+4] xor b[i+5] xor b[i+6] xor b[i+7] xor c[i], indices mod 8, c = 0x63 (40_primitives R89). -/
def sboxAffine (b : Byte) : Byte :=
  b ^^^ b.rotateRight 4 ^^^ b.rotateRight 5 ^^^ b.rotateRight 6 ^^^ b.rotateRight 7 ^^^ 0x63

/-- `RotWord([a0, a1, a2, a3]) = [a1, a2, a3, a0]` (40_primitives R94). -/
def rotWord (w : ByteWord) : ByteWord := ⟨w.a1, w.a2, w.a3, w.a0⟩

/-- `SubWord`: every byte through SBOX (40_primitives R95). -/
def subWord (w : ByteWord) : ByteWord := w.map sbox

/-- `g` of the expansion: SubWord of RotWord, with `rc` XORed into the first byte (40_primitives R96, 41_key_expansion R111). -/
def expandG (w : ByteWord) (rc : Byte) : ByteWord :=
  let t := subWord (rotWord w)
  ⟨t.a0 ^^^ rc, t.a1, t.a2, t.a3⟩

/-- SubBytes (40_primitives R97). -/
def subBytes (s : Block) : Block := s.map sbox

/-- InvSubBytes (40_primitives R97). -/
def invSubBytes (s : Block) : Block := s.map invSbox

/-- ShiftRows: row r rotated left by r columns; addition in `Fin 4` is modulo 4 (40_primitives R98). -/
def shiftRows (s : Block) : Block := .ofRowCol fun r c => s.rc r (c + r)

/-- InvShiftRows: row r rotated right by r columns (40_primitives R99). -/
def invShiftRows (s : Block) : Block := .ofRowCol fun r c => s.rc r (c - r)

/-- One column of MixColumns (40_primitives R100). -/
def mixColumn (w : ByteWord) : ByteWord where
  a0 := gmul w.a0 2 ^^^ gmul w.a1 3 ^^^ w.a2 ^^^ w.a3
  a1 := w.a0 ^^^ gmul w.a1 2 ^^^ gmul w.a2 3 ^^^ w.a3
  a2 := w.a0 ^^^ w.a1 ^^^ gmul w.a2 2 ^^^ gmul w.a3 3
  a3 := gmul w.a0 3 ^^^ w.a1 ^^^ w.a2 ^^^ gmul w.a3 2

/-- One column of InvMixColumns (40_primitives R101). -/
def invMixColumn (w : ByteWord) : ByteWord where
  a0 := gmul w.a0 14 ^^^ gmul w.a1 11 ^^^ gmul w.a2 13 ^^^ gmul w.a3 9
  a1 := gmul w.a0 9 ^^^ gmul w.a1 14 ^^^ gmul w.a2 11 ^^^ gmul w.a3 13
  a2 := gmul w.a0 13 ^^^ gmul w.a1 9 ^^^ gmul w.a2 14 ^^^ gmul w.a3 11
  a3 := gmul w.a0 11 ^^^ gmul w.a1 13 ^^^ gmul w.a2 9 ^^^ gmul w.a3 14

/-- MC, MixColumns (40_primitives R100). -/
def mixColumns (s : Block) : Block := s.mapWords mixColumn

/-- IMC, InvMixColumns (40_primitives R101). -/
def invMixColumns (s : Block) : Block := s.mapWords invMixColumn

/-- AESE, the round-encrypt primitive, key XOR first (40_primitives R102). -/
def aese (s k : Block) : Block := shiftRows (subBytes (s.xor k))

/-- AESD, the round-decrypt primitive, key XOR first (40_primitives R103). -/
def aesd (s k : Block) : Block := invSubBytes (invShiftRows (s.xor k))

end Sys2Proof.Machine
end

