-- ==== Sys2Proof/Machine/Sequences.lean ====
section
/-! DEFINITION. The source's three algorithms as functions of values: key expansion (41_key_expansion R111 to R113), encryption (42_encrypt R121) and decryption (43_decrypt R130), for the meanings to use and the statements to refer to. -/

namespace Sys2Proof.Machine

/-- `NextRoundKey(p, rc)`: one round of expansion (41_key_expansion R113). -/
def nextRoundKey (p : Block) (rc : Byte) : Block :=
  let n0 := (expandG p.w3 rc).xor p.w0
  let n1 := n0.xor p.w1
  let n2 := n1.xor p.w2
  let n3 := n2.xor p.w3
  ⟨n0, n1, n2, n3⟩

/-- `ExpandKey128(K)[j]`, by the recurrence of 41_key_expansion R113. -/
def roundKey (k : Block) : Nat → Block
  | 0 => nextRoundKey k (rcon 1)
  | j + 1 => nextRoundKey (roundKey k j) (rcon (j + 2))

/-- `ExpandKey128(K)`, the ten-entry schedule (41_key_expansion R112). -/
def expandKey128 (k : Block) : Vector Block 10 :=
  #v[roundKey k 0, roundKey k 1, roundKey k 2, roundKey k 3, roundKey k 4,
     roundKey k 5, roundKey k 6, roundKey k 7, roundKey k 8, roundKey k 9]

/-- The next word W[i] from the words W[0..i-1] (41_key_expansion R111). -/
def nextExpandedWord (ws : List ByteWord) : ByteWord :=
  let i := ws.length
  let zero : ByteWord := ⟨0, 0, 0, 0⟩
  let before := ws.getD (i - 1) zero
  let back4 := ws.getD (i - 4) zero
  if i % 4 = 0 then (expandG before (rcon (i / 4))).xor back4 else before.xor back4

/-- The words W[0..n+3]: the key's four words and `n` more (41_key_expansion R111). -/
def expandedWords (k : Block) : Nat → List ByteWord
  | 0 => [k.w0, k.w1, k.w2, k.w3]
  | n + 1 => expandedWords k n ++ [nextExpandedWord (expandedWords k n)]

/-- `Encrypt128(K, RK, P)` (42_encrypt R121). -/
def encrypt128 (k : Block) (rk : Vector Block 10) (p : Block) : Block :=
  let s := mixColumns (aese p k)
  let s := mixColumns (aese s rk[0])
  let s := mixColumns (aese s rk[1])
  let s := mixColumns (aese s rk[2])
  let s := mixColumns (aese s rk[3])
  let s := mixColumns (aese s rk[4])
  let s := mixColumns (aese s rk[5])
  let s := mixColumns (aese s rk[6])
  let s := mixColumns (aese s rk[7])
  let s := aese s rk[8]
  s.xor rk[9]

/-- One pass of step 2 of decryption (43_decrypt R130). -/
def decryptPass (s rki : Block) : Block := aesd (invMixColumns s) (invMixColumns rki)

/-- `Decrypt128(K, RK, C)` (43_decrypt R130). -/
def decrypt128 (k : Block) (rk : Vector Block 10) (c : Block) : Block :=
  let s := aesd c rk[9]
  let s := decryptPass s rk[8]
  let s := decryptPass s rk[7]
  let s := decryptPass s rk[6]
  let s := decryptPass s rk[5]
  let s := decryptPass s rk[4]
  let s := decryptPass s rk[3]
  let s := decryptPass s rk[2]
  let s := decryptPass s rk[1]
  let s := decryptPass s rk[0]
  s.xor k

end Sys2Proof.Machine
end

