-- ==== Sys2Proof/Machine/Operands.lean ====
section
/-! DEFINITION. Operand forms: host-word packing (20_memory R46), the register window (20_memory R44, R45), 16-byte register values, written-ness (44_host_access R145), and the map from bus addresses to the window. -/

namespace Sys2Proof.Machine

/-- The host word that packs four bytes, the lowest-numbered one most significant (20_memory R46). -/
def packWord (w : ByteWord) : HostWord := w.a0 ++ w.a1 ++ w.a2 ++ w.a3

/-- The four bytes of a host word (20_memory R46). -/
def unpackWord (x : HostWord) : ByteWord where
  a0 := x.extractLsb' 24 8
  a1 := x.extractLsb' 16 8
  a2 := x.extractLsb' 8 8
  a3 := x.extractLsb' 0 8

/-- The 16-byte value of four host words. -/
def blockOfWords (x0 x1 x2 x3 : HostWord) : Block := ⟨unpackWord x0, unpackWord x1, unpackWord x2, unpackWord x3⟩

/-- A 16-byte value as a 128-bit number, byte 0 most significant (00_scope R9). -/
def blockToBits (v : Block) : BitVec 128 := packWord v.w0 ++ packWord v.w1 ++ packWord v.w2 ++ packWord v.w3

/-- The 16-byte value of a 128-bit number, byte 0 most significant (00_scope R9). -/
def blockOfBits (x : BitVec 128) : Block :=
  blockOfWords (x.extractLsb' 96 32) (x.extractLsb' 64 32) (x.extractLsb' 32 32) (x.extractLsb' 0 32)

/-- A register all of whose words are written, with the value `v`. -/
def Reg.ofBlock (v : Block) : Reg :=
  #v[some (packWord v.w0), some (packWord v.w1), some (packWord v.w2), some (packWord v.w3)]

/-- The 16-byte value of a register, none if a word of it is unwritten (10_state R26). -/
def Reg.block? (r : Reg) : Option Block :=
  match r[0], r[1], r[2], r[3] with
  | some x0, some x1, some x2, some x3 => some (blockOfWords x0 x1 x2 x3)
  | _, _, _, _ => none

/-- All four words of a register are written (44_host_access R145). -/
def Reg.isWritten (r : Reg) : Bool := r.block?.isSome

/-- The value of RK[j], none if a word of it is unwritten. -/
def Chip.roundKey? (c : Chip) (j : Fin 10) : Option Block := (c.rk[j.val]'j.isLt).block?

/-- Every word of RK[0..9] is written (44_host_access R145). -/
def Chip.scheduleWritten (c : Chip) : Bool := c.rk.toList.all Reg.isWritten

/-- The operands EXPAND reads are written (44_host_access R145). -/
def Chip.expandReady (c : Chip) : Bool := c.key.isWritten

/-- The operands ENCRYPT and DECRYPT read are written (44_host_access R145). -/
def Chip.cipherReady (c : Chip) : Bool := c.din.isWritten && c.key.isWritten && c.scheduleWritten

/-- What a window offset names (20_memory R44, R45). -/
inductive Location where
  | ctrl
  | status
  | unmapped
  | key (k : Fin 4)
  | din (k : Fin 4)
  | dout (k : Fin 4)
  | rk (j : Fin 10) (k : Fin 4)
deriving DecidableEq, Repr

/-- The register at a window offset that is a multiple of 4 (20_memory R44, R45). -/
def locate (off : BitVec 8) : Location :=
  let n := off.toNat
  let k : Fin 4 := ⟨n % 16 / 4, by omega⟩
  if n < 0x04 then .ctrl
  else if n < 0x08 then .status
  else if n < 0x10 then .unmapped
  else if n < 0x20 then .key k
  else if n < 0x30 then .din k
  else if n < 0x40 then .dout k
  else if h : n < 0xE0 then .rk ⟨(n - 0x40) / 16, by omega⟩ k
  else .unmapped

/-- The first check of an access: its size, its alignment, and that its offset is mapped (60_exceptions R165, item 1). -/
def badAccess (off : BitVec 8) (size : Nat) : Bool :=
  decide (size ≠ 4) || decide (off.toNat % 4 ≠ 0) || decide (locate off = .unmapped)

/-- The data word at a location, none where the location is no data word: the outer option says whether it is one, the inner whether it is written. -/
def Chip.dataWord? (c : Chip) : Location → Option (Option HostWord)
  | .key k => some (c.key[k.val]'k.isLt)
  | .din k => some (c.din[k.val]'k.isLt)
  | .dout k => some (c.dout[k.val]'k.isLt)
  | .rk j k => some ((c.rk[j.val]'j.isLt)[k.val]'k.isLt)
  | .ctrl | .status | .unmapped => none

/-- The host may write the location: KEY, DIN and RK words (20_memory R44). -/
def Location.isWritable : Location → Bool
  | .key _ | .din _ | .rk _ _ => true
  | .ctrl | .status | .unmapped | .dout _ => false

/-- The transaction an access by bus address makes at this block's port, none if the address lies outside the window (20_memory R43). -/
def accessTransaction? (p : Params) (a : Access) : Option Transaction :=
  if p.base ≤ a.addr ∧ a.addr < p.base + 256 then
    some ⟨a.dir, BitVec.ofNat 8 (a.addr - p.base), a.size, a.wdata⟩
  else none

end Sys2Proof.Machine
end

