-- ==== Sys2Proof/Machine/Ops.lean ====
section
/-! DEFINITION. The named operations over the state that the meanings share: register updates, recording a fault, a rejection or a refusal, accepting and completing a command, reset, and the host's reads and writes. The block takes no trap (60_exceptions R168), so raising a model fault and rejecting a command are the operations that stand where another machine takes an exception. -/

namespace Sys2Proof.Machine

/-- `RK[j] <- v`, the whole register (00_scope R12). -/
def Chip.storeRoundKey (c : Chip) (j : Fin 10) (v : Block) : Chip := { c with rk := c.rk.set j.val (.ofBlock v) j.isLt }

/-- `ST <- v` (10_state R25). -/
def Chip.storeSt (c : Chip) (v : Block) : Chip := { c with st := some v }

/-- `DOUT <- v`, the whole register (10_state R24). -/
def Chip.storeDout (c : Chip) (v : Block) : Chip := { c with dout := .ofBlock v }

/-- `RND <- r` (10_state R30). -/
def Chip.setRnd (c : Chip) (r : BitVec 4) : Chip := { c with rnd := r }

/-- Acceptance: `MODE <- m; RND <- 0; BUSY <- 1` (41_key_expansion R114, 42_encrypt R124, 43_decrypt R133). -/
def Chip.start (c : Chip) (m : Mode) : Chip := { c with mode := m, rnd := 0, busy := true }

/-- `complete: BUSY <- 0; MODE <- IDLE; RND <- 0` (44_host_access R147). -/
def Chip.complete (c : Chip) : Chip := { c with busy := false, mode := .idle, rnd := 0 }

/-- The store of one host word of KEY, DIN or RK; a KEY or RK word clears KSV (44_host_access R140). Any other location stores nothing. -/
def Chip.writeWord (c : Chip) (x : HostWord) : Location → Chip
  | .key k => { c with key := c.key.set k.val (some x) k.isLt, ksv := false }
  | .din k => { c with din := c.din.set k.val (some x) k.isLt }
  | .rk j k => { c with rk := c.rk.set j.val ((c.rk[j.val]'j.isLt).set k.val (some x) k.isLt) j.isLt, ksv := false }
  | .ctrl | .status | .unmapped | .dout _ => c

/-- The state with another block part. -/
def State.withChip (s : State) (c : Chip) : State := { s with chip := c }

/-- `raise Fault(f)`: the name joins FAULTS and nothing else changes (00_scope R12, 60_exceptions R161, R162). -/
def State.raise (s : State) (f : Fault) : State := { s with faults := s.faults.insert f }

/-- `refuse(reason)`: REFUSED is set and nothing else changes (60_exceptions R163). -/
def State.refuse (s : State) : State := { s with refused := true }

/-- The response to a host access (30_encoding R78). -/
def State.respond (s : State) (r : Option Response) : State := { s with rsp := r }

/-- The OK response to a write (30_encoding R78). -/
def State.respondWritten (s : State) : State := s.respond (some ⟨none, false⟩)

/-- The OK response to a read, with its data (30_encoding R78). -/
def State.respondRead (s : State) (x : HostWord) : State := s.respond (some ⟨some x, false⟩)

/-- F_ACCESS at an access: the ERROR response, which carries no value (30_encoding R79, 60_exceptions R162; log 9). -/
def State.accessFault (s : State) : State := (s.raise .access).respond (some ⟨none, true⟩)

/-- F_BUSY at an access: no response, since no rule gives the chip's (20_memory R49; log 9). -/
def State.busyFault (s : State) : State := (s.raise .busy).respond none

/-- F_UNWRITTEN at an access: no response, since no rule gives the chip's (60_exceptions R161; log 9). -/
def State.unwrittenFault (s : State) : State := (s.raise .unwritten).respond none

/-- The reset event: the block as in 10_state R41, everything else unchanged (70_reset_and_hazards R177). -/
def State.resetEvent (s : State) : State := s.withChip .reset

/-- `reject(code)`: the write is done, and ERR holds the code if it held none (60_exceptions R159). -/
def State.reject (s : State) (code : BitVec 4) : State := (s.withChip (s.chip.setError code)).respondWritten

/-- CLEAR's effect (44_host_access R142). -/
def State.clearCommand (s : State) : State := (s.withChip s.chip.clearErr).respondWritten

/-- EXPAND's acceptance, after the operand check (41_key_expansion R114). -/
def State.expandCommand (s : State) : State :=
  if s.chip.expandReady then (s.withChip (s.chip.start .expand)).respondWritten else s.unwrittenFault

/-- The acceptance of ENCRYPT or DECRYPT, after the operand check: ST takes a copy of DIN (42_encrypt R124, 43_decrypt R133). -/
def State.cipherCommand (s : State) (m : Mode) : State :=
  if s.chip.cipherReady then
    (s.withChip ({ s.chip with st := s.chip.din.block? }.start m)).respondWritten
  else s.unwrittenFault

/-- The busy check every command word meets first (44_host_access R141). -/
def State.commandWhenIdle (s : State) (effect : State → State) : State := if s.chip.busy then s.busyFault else effect s

/-- A host write of CTRL: command dispatch (44_host_access R141). -/
def State.ctrlWrite (s : State) (v : HostWord) : State :=
  s.commandWhenIdle fun s =>
    if v.extractLsb' 4 28 ≠ 0 then s.reject errRsvdBits
    else if 4 ≤ (v.extractLsb' 0 4).toNat then s.reject errIllegalCmd
    else if v.extractLsb' 0 4 = 0 then s.clearCommand
    else if v.extractLsb' 0 4 = 1 then s.expandCommand
    else if v.extractLsb' 0 4 = 2 then s.cipherCommand .encrypt
    else s.cipherCommand .decrypt

/-- The answer to a read of a data word: its value, or F_UNWRITTEN (44_host_access R139). -/
def State.readWord (s : State) : Option HostWord → State
  | some x => s.respondRead x
  | none => s.unwrittenFault

/-- A host read (44_host_access R139), its checks in the order of 60_exceptions R165. -/
def State.hostRead (s : State) (off : BitVec 8) (size : Nat) : State :=
  if badAccess off size then s.accessFault
  else if s.chip.busy ∧ locate off ≠ .status then s.busyFault
  else
    match locate off with
    | .ctrl => s.respondRead 0
    | .status => s.respondRead s.chip.statusWord
    | .unmapped => s.accessFault
    | .key k => s.readWord (s.chip.key[k.val]'k.isLt)
    | .din k => s.readWord (s.chip.din[k.val]'k.isLt)
    | .dout k => s.readWord (s.chip.dout[k.val]'k.isLt)
    | .rk j k => s.readWord ((s.chip.rk[j.val]'j.isLt)[k.val]'k.isLt)

/-- A host write (44_host_access R140, R141), its checks in the order of 60_exceptions R165. -/
def State.hostWrite (s : State) (off : BitVec 8) (size : Nat) (x : HostWord) : State :=
  if badAccess off size then s.accessFault
  else if s.chip.busy then s.busyFault
  else if locate off = .ctrl then s.ctrlWrite x
  else if (locate off).isWritable then (s.withChip (s.chip.writeWord x (locate off))).respondWritten
  else s.accessFault

/-- The outcome of an iteration: the block with the iteration's effect, or F_UNWRITTEN where an operand holds no value, which no reachable state shows (44_host_access R149, 10_state R26; log 6). -/
def State.iterate (s : State) : Option Chip → State
  | some c => s.withChip c
  | none => s.raise .unwritten

end Sys2Proof.Machine
end

