-- ==== Sys2Proof/Machine/Commands.lean ====
section
/-! DEFINITION. The meanings of the six outcomes of a command word (44_host_access R141 to R145, 41_key_expansion R114, 42_encrypt R124, 43_decrypt R133). -/

namespace Sys2Proof.Machine

/-- CLEAR (44_host_access R142). -/
def execClear (s : State) : Host.Outcome State Fault Refusal := .next (s.commandWhenIdle State.clearCommand)

/-- EXPAND (41_key_expansion R114). -/
def execExpand (s : State) : Host.Outcome State Fault Refusal := .next (s.commandWhenIdle State.expandCommand)

/-- ENCRYPT (42_encrypt R124). -/
def execEncrypt (s : State) : Host.Outcome State Fault Refusal := .next (s.commandWhenIdle (·.cipherCommand .encrypt))

/-- DECRYPT (43_decrypt R133). -/
def execDecrypt (s : State) : Host.Outcome State Fault Refusal := .next (s.commandWhenIdle (·.cipherCommand .decrypt))

/-- A reserved command code, whatever it is (44_host_access R143). -/
def execIllegalCmd (_cmd : BitVec 4) (s : State) : Host.Outcome State Fault Refusal :=
  .next (s.commandWhenIdle (·.reject errIllegalCmd))

/-- A command word with reserved bits set, whatever they and its code are (44_host_access R144). -/
def execRsvdBits (_rsvd : BitVec 28) (_cmd : BitVec 4) (s : State) : Host.Outcome State Fault Refusal :=
  .next (s.commandWhenIdle (·.reject errRsvdBits))

end Sys2Proof.Machine
end

