-- ==== Sys2Proof/Machine/Decrypt.lean ====
section
/-! DEFINITION. The meanings of the decryption micro-operations (43_decrypt R134 to R136). InvMixColumns of a round key is taken of a copy: RK is not written. -/

namespace Sys2Proof.Machine

/-- DEC_FIRST: `ST <- AESD(ST, RK[9]); RND <- 1` (43_decrypt R134). -/
def execDecFirst (s : State) : Host.Outcome State Fault Refusal :=
  .next (s.iterate (do
    let st ← s.chip.st
    let k9 ← s.chip.roundKey? 9
    pure ((s.chip.storeSt (aesd st k9)).setRnd 1)))

/-- DEC_MID: `ST <- AESD(IMC(ST), IMC(RK[9-r])); RND <- r + 1`, r in 1..8 (43_decrypt R135). -/
def execDecMid (r : BitVec 4) (s : State) : Host.Outcome State Fault Refusal :=
  if _h : 1 ≤ r.toNat ∧ r.toNat ≤ 8 then
    .next (s.iterate (do
      let st ← s.chip.st
      let k ← s.chip.roundKey? ⟨9 - r.toNat, by omega⟩
      pure ((s.chip.storeSt (decryptPass st k)).setRnd (r + 1))))
  else .refused (.illFormed "DEC_MID")

/-- DEC_LAST: `ST <- AESD(IMC(ST), IMC(RK[0])) xor KEY; DOUT <- ST; complete` (43_decrypt R136). -/
def execDecLast (s : State) : Host.Outcome State Fault Refusal :=
  .next (s.iterate (do
    let st ← s.chip.st
    let k0 ← s.chip.roundKey? 0
    let k ← s.chip.key.block?
    let v := (decryptPass st k0).xor k
    pure ((s.chip.storeSt v).storeDout v).complete))

end Sys2Proof.Machine
end

