-- ==== Sys2Proof/Machine/Encrypt.lean ====
section
/-! DEFINITION. The meanings of the encryption micro-operations (42_encrypt R125 to R127). -/

namespace Sys2Proof.Machine

/-- ENC_FIRST: `ST <- MC(AESE(ST, KEY)); RND <- 1` (42_encrypt R125). -/
def execEncFirst (s : State) : Host.Outcome State Fault Refusal :=
  .next (s.iterate (do
    let st ← s.chip.st
    let k ← s.chip.key.block?
    pure ((s.chip.storeSt (mixColumns (aese st k))).setRnd 1)))

/-- ENC_MID: `ST <- MC(AESE(ST, RK[r-1])); RND <- r + 1`, r in 1..8 (42_encrypt R126). -/
def execEncMid (r : BitVec 4) (s : State) : Host.Outcome State Fault Refusal :=
  if h : 1 ≤ r.toNat ∧ r.toNat ≤ 8 then
    .next (s.iterate (do
      let st ← s.chip.st
      let k ← s.chip.roundKey? ⟨r.toNat - 1, by omega⟩
      pure ((s.chip.storeSt (mixColumns (aese st k))).setRnd (r + 1))))
  else .refused (.illFormed "ENC_MID")

/-- ENC_LAST: `ST <- AESE(ST, RK[8]) xor RK[9]; DOUT <- ST; complete` (42_encrypt R127). -/
def execEncLast (s : State) : Host.Outcome State Fault Refusal :=
  .next (s.iterate (do
    let st ← s.chip.st
    let k8 ← s.chip.roundKey? 8
    let k9 ← s.chip.roundKey? 9
    let v := (aese st k8).xor k9
    pure ((s.chip.storeSt v).storeDout v).complete))

end Sys2Proof.Machine
end

