-- ==== Sys2Proof/Machine/Expand.lean ====
section
/-! DEFINITION. The meanings of the key expander's micro-operations (41_key_expansion R115 to R117). -/

namespace Sys2Proof.Machine

/-- EXP_FIRST: `RK[0] <- NextRoundKey(KEY, RCON[1]); RND <- 1` (41_key_expansion R115). -/
def execExpFirst (s : State) : Host.Outcome State Fault Refusal :=
  .next (s.iterate (s.chip.key.block?.map fun k => (s.chip.storeRoundKey 0 (nextRoundKey k (rcon 1))).setRnd 1))

/-- EXP_NEXT: `RK[r] <- NextRoundKey(RK[r-1], RCON[r+1]); RND <- r + 1`, r in 1..8 (41_key_expansion R116). -/
def execExpNext (r : BitVec 4) (s : State) : Host.Outcome State Fault Refusal :=
  if h : 1 ≤ r.toNat ∧ r.toNat ≤ 8 then
    .next (s.iterate ((s.chip.roundKey? ⟨r.toNat - 1, by omega⟩).map fun p =>
      (s.chip.storeRoundKey ⟨r.toNat, by omega⟩ (nextRoundKey p (rcon (r.toNat + 1)))).setRnd (r + 1)))
  else .refused (.illFormed "EXP_NEXT")

/-- EXP_LAST: `RK[9] <- NextRoundKey(RK[8], RCON[10]); KSV <- 1; complete` (41_key_expansion R117). -/
def execExpLast (s : State) : Host.Outcome State Fault Refusal :=
  .next (s.iterate ((s.chip.roundKey? 8).map fun p =>
    ((s.chip.storeRoundKey 9 (nextRoundKey p (rcon 10))).setKsv true).complete))

end Sys2Proof.Machine
end

