-- ==== Sys2Proof/Machine/HostAccess.lean ====
section
/-! DEFINITION. The meanings of the host's two accesses (44_host_access R139, R140). -/

namespace Sys2Proof.Machine

/-- RD32 (44_host_access R139). -/
def execRd32 (off : BitVec 8) (size : Nat) (s : State) : Host.Outcome State Fault Refusal := .next (s.hostRead off size)

/-- WR32 (44_host_access R140; at offset 0, R141). -/
def execWr32 (off : BitVec 8) (size : Nat) (wdata : HostWord) (s : State) : Host.Outcome State Fault Refusal :=
  .next (s.hostWrite off size wdata)

end Sys2Proof.Machine
end

