-- ==== Sys2Proof/Machine/Sequencer.lean ====
section
/-! DEFINITION. The meanings of the two UOP words that are no iteration (30_encoding R75, R77). -/

namespace Sys2Proof.Machine

/-- UNREACHABLE: REFUSED is set and no step is taken (30_encoding R77, 60_exceptions R163 (a)). -/
def execUnreachable (_mode : BitVec 2) (_rnd : BitVec 4) (s : State) : Host.Outcome State Fault Refusal := .next s.refuse

/-- NO_STEP: the core has no step, so nothing changes (10_state R31, 30_encoding R75, 60_exceptions R176; log 7). -/
def execNoStep (_rnd : BitVec 4) (s : State) : Host.Outcome State Fault Refusal := .next s

end Sys2Proof.Machine
end

