-- ==== Sys2Proof/Machine/Dispatch.lean ====
section
/-! DEFINITION. One arm for each operation, each a direct call of its meaning. -/

namespace Sys2Proof.Machine

def exec (i : Instr) (s : State) : Host.Outcome State Fault Refusal :=
  match i with
  | .clear => Sys2Proof.Machine.execClear s
  | .expand => Sys2Proof.Machine.execExpand s
  | .encrypt => Sys2Proof.Machine.execEncrypt s
  | .decrypt => Sys2Proof.Machine.execDecrypt s
  | .illegalCmd cmd => Sys2Proof.Machine.execIllegalCmd cmd s
  | .rsvdBits rsvd cmd => Sys2Proof.Machine.execRsvdBits rsvd cmd s
  | .expFirst => Sys2Proof.Machine.execExpFirst s
  | .expNext r => Sys2Proof.Machine.execExpNext r s
  | .expLast => Sys2Proof.Machine.execExpLast s
  | .encFirst => Sys2Proof.Machine.execEncFirst s
  | .encMid r => Sys2Proof.Machine.execEncMid r s
  | .encLast => Sys2Proof.Machine.execEncLast s
  | .decFirst => Sys2Proof.Machine.execDecFirst s
  | .decMid r => Sys2Proof.Machine.execDecMid r s
  | .decLast => Sys2Proof.Machine.execDecLast s
  | .unreachable mode rnd => Sys2Proof.Machine.execUnreachable mode rnd s
  | .noStep rnd => Sys2Proof.Machine.execNoStep rnd s
  | .rd32 off size => Sys2Proof.Machine.execRd32 off size s
  | .wr32 off size wdata => Sys2Proof.Machine.execWr32 off size wdata s

end Sys2Proof.Machine
end

