-- ==== Sys2Proof/Machine/Script.lean ====
section
/-! DEFINITION. Host scripts: the pseudo-instructions and their expansions (30_encoding R82), and the driver calls as scripts with their errors and refusals (44_host_access R152 to R156). -/

namespace Sys2Proof.Machine

/-- The four word operands of a 16-byte literal, w[0] first. -/
def literalWords (v : Block) : List Operand :=
  [.lit (packWord v.w0), .lit (packWord v.w1), .lit (packWord v.w2), .lit (packWord v.w3)]

/-- The four word operands of the 16-byte variable d, w[0] first. -/
def variableWords (d : Nat) : List Operand := [.var (.word d 0), .var (.word d 1), .var (.word d 2), .var (.word d 3)]

/-- Writes of consecutive words from an offset on. -/
def loadAt : Nat → List Operand → List HostLine
  | _, [] => []
  | off, x :: xs => .wr32 (BitVec.ofNat 8 off) x :: loadAt (off + 4) xs

/-- Reads of the four words from an offset on into the 16-byte variable d. -/
def readTo (off d : Nat) : List HostLine :=
  [.rd32 (BitVec.ofNat 8 off) (.word d 0), .rd32 (BitVec.ofNat 8 (off + 4)) (.word d 1),
   .rd32 (BitVec.ofNat 8 (off + 8)) (.word d 2), .rd32 (BitVec.ofNat 8 (off + 12)) (.word d 3)]

/-- `LDKEY v` (30_encoding R82). -/
def ldKey (v : List Operand) : List HostLine := loadAt 0x10 v

/-- `LDDIN v`. -/
def ldDin (v : List Operand) : List HostLine := loadAt 0x20 v

/-- `LDRK j, v`. -/
def ldRk (j : Nat) (v : List Operand) : List HostLine := loadAt (0x40 + 0x10 * j) v

/-- `RDOUT -> d`. -/
def rdOutTo (d : Nat) : List HostLine := readTo 0x30 d

/-- `RDRK j -> d`. -/
def rdRkTo (j d : Nat) : List HostLine := readTo (0x40 + 0x10 * j) d

/-- `CMD`: the write of a command word to CTRL. -/
def cmdLine (v : HostWord) : HostLine := .wr32 0 (.lit v)

/-- `EXPANDKEY v`. -/
def expandKeyLines (v : List Operand) : List HostLine := ldKey v ++ [cmdLine 1, .wait]

/-- `ENCBLK p -> d`. -/
def encBlk (p : List Operand) (d : Nat) : List HostLine := ldDin p ++ [cmdLine 2, .wait] ++ rdOutTo d

/-- `DECBLK c -> d`. -/
def decBlk (c : List Operand) (d : Nat) : List HostLine := ldDin c ++ [cmdLine 3, .wait] ++ rdOutTo d

/-- The host words of a byte buffer, most significant byte first (20_memory R65). Bytes after the last whole word are dropped; the driver never passes such a buffer. -/
def wordsOfBytes : List Byte → List HostWord
  | b0 :: b1 :: b2 :: b3 :: bs => packWord ⟨b0, b1, b2, b3⟩ :: wordsOfBytes bs
  | _ => []

/-- The four bytes of a word, its first byte first. -/
def bytesOfByteWord (w : ByteWord) : List Byte := [w.a0, w.a1, w.a2, w.a3]

/-- The four bytes of a host word, most significant first (20_memory R46). -/
def bytesOfWord (x : HostWord) : List Byte := bytesOfByteWord (unpackWord x)

/-- `n` pieces of 16 bytes. -/
def sixteens : Nat → List Byte → List (List Byte)
  | 0, _ => []
  | n + 1, bs => bs.take 16 :: sixteens n (bs.drop 16)

/-- The 16-byte blocks of a buffer whose length is a multiple of 16 (20_memory R65). -/
def blocksOfBytes (bs : List Byte) : List (List Byte) := sixteens (bs.length / 16) bs

/-- Literal operands for a byte buffer. -/
def literalBytes (bs : List Byte) : List Operand := (wordsOfBytes bs).map .lit

/-- The driver's reads of four result words from an offset on. -/
def readOut (off : Nat) : List HostLine :=
  [.rdOut (BitVec.ofNat 8 off), .rdOut (BitVec.ofNat 8 (off + 4)), .rdOut (BitVec.ofNat 8 (off + 8)),
   .rdOut (BitVec.ofNat 8 (off + 12))]

/-- The load of a schedule, RK[j] on (44_host_access R153). -/
def ldSchedule : Nat → List (List Byte) → List HostLine
  | _, [] => []
  | j, k :: ks => ldRk j (literalBytes k) ++ ldSchedule (j + 1) ks

/-- The reads of `n` round keys, RK[j] on (44_host_access R152). -/
def readSchedule : Nat → Nat → List HostLine
  | _, 0 => []
  | j, n + 1 => readOut (0x40 + 0x10 * j) ++ readSchedule (j + 1) n

/-- One block through the block: LDDIN, the command, WAIT, and the read of DOUT (44_host_access R153). -/
def blockLines (cmd : HostWord) (b : List Byte) : List HostLine :=
  ldDin (literalBytes b) ++ [cmdLine cmd, .wait] ++ readOut 0x30

/-- A schedule is ten entries of 16 bytes (44_host_access R155 (d)). -/
def scheduleShape (sched : List (List Byte)) : Bool := decide (sched.length = 10) && sched.all (·.length == 16)

/-- What a driver call does before any access to the block. -/
inductive CallPlan where
  /-- The model gives the call no meaning (60_exceptions R163 (b), (c)). -/
  | refuse
  /-- The call returns at once, with no access. -/
  | done (r : DriverResult)
  /-- The call runs these lines. -/
  | run (lines : List HostLine)
deriving DecidableEq, Repr

/-- `DrvExpandKey128` (44_host_access R152). -/
def planExpandKey (key : List Byte) : CallPlan :=
  if key.length ≠ 16 then .done (.error .invalidKeyLength)
  else .run (expandKeyLines (literalBytes key) ++ readSchedule 0 10 ++ [.retSchedule])

/-- `DrvEncrypt` with command 2, `DrvDecrypt` with command 3, the checks in the spec's order (44_host_access R153, R154). -/
def planCipher (cmd : HostWord) (key : List Byte) (sched : List (List Byte)) (rounds : BitVec 32) (input : List Byte) : CallPlan :=
  if rounds ≠ 10 then .refuse
  else if key.length ≠ 16 then .done (.error .invalidKeyLength)
  else if input.length % 16 ≠ 0 then .done (.error .invalidLength)
  else if !scheduleShape sched then .refuse
  else if input.length = 0 then .done (.bytes [])
  else
    .run (ldKey (literalBytes key) ++ ldSchedule 0 sched ++ (blocksOfBytes input).flatMap (blockLines cmd) ++ [.retBytes])

/-- The plan of a driver call. -/
def planCall : DriverCall → CallPlan
  | .expandKey128 key => planExpandKey key
  | .encrypt key sched rounds input => planCipher 2 key sched rounds input
  | .decrypt key sched rounds input => planCipher 3 key sched rounds input

/-- The 16-byte value of sixteen bytes, byte 0 first (00_scope R9). A shorter list is read as followed by zeros; the driver passes none. -/
def blockOfBytes (bs : List Byte) : Block where
  w0 := ⟨bs.getD 0 0, bs.getD 1 0, bs.getD 2 0, bs.getD 3 0⟩
  w1 := ⟨bs.getD 4 0, bs.getD 5 0, bs.getD 6 0, bs.getD 7 0⟩
  w2 := ⟨bs.getD 8 0, bs.getD 9 0, bs.getD 10 0, bs.getD 11 0⟩
  w3 := ⟨bs.getD 12 0, bs.getD 13 0, bs.getD 14 0, bs.getD 15 0⟩

/-- The sixteen bytes of a 16-byte value, byte 0 first (00_scope R9). -/
def bytesOfBlock (v : Block) : List Byte :=
  bytesOfByteWord v.w0 ++ bytesOfByteWord v.w1 ++ bytesOfByteWord v.w2 ++ bytesOfByteWord v.w3

/-- The ten round keys of a schedule of the right shape. -/
def scheduleOfBytes (sched : List (List Byte)) : Vector Block 10 :=
  let k := fun j => blockOfBytes (sched.getD j [])
  #v[k 0, k 1, k 2, k 3, k 4, k 5, k 6, k 7, k 8, k 9]

/-- The schedule as the driver returns it: ten round keys of 16 bytes (44_host_access R152). -/
def bytesOfSchedule (rk : Vector Block 10) : List (List Byte) := rk.toList.map bytesOfBlock

/-- The source's Encrypt on a buffer, block i of the input giving block i of the output (44_host_access R153, R154). -/
def encryptBuffer (key : List Byte) (sched : List (List Byte)) (input : List Byte) : List Byte :=
  (blocksOfBytes input).flatMap fun b =>
    bytesOfBlock (encrypt128 (blockOfBytes key) (scheduleOfBytes sched) (blockOfBytes b))

/-- The source's Decrypt on a buffer (44_host_access R154). -/
def decryptBuffer (key : List Byte) (sched : List (List Byte)) (input : List Byte) : List Byte :=
  (blocksOfBytes input).flatMap fun b =>
    bytesOfBlock (decrypt128 (blockOfBytes key) (scheduleOfBytes sched) (blockOfBytes b))

end Sys2Proof.Machine
end

