-- ==== Sys2Proof/Machine/Events.lean ====
section
/-! DEFINITION. The events: a core step (44_host_access R149), an access of another bus master (20_memory R64), a line of the host's script (30_encoding R81), a reset (70_reset_and_hazards R177), and the order in which they fall (44_host_access R148). -/

namespace Sys2Proof.Machine

/-- An access at the block's port: the operation its transaction stands for (44_host_access R139 to R141). -/
def portAccess (t : Transaction) (s : State) : Host.Outcome State Fault Refusal := exec (decodeTransaction t) s

/-- An access by bus address. One outside the window does not reach this block (20_memory R43; log 16). -/
def busAccess (a : Access) (s : State) : Host.Outcome State Fault Refusal :=
  match accessTransaction? s.params a with
  | some t => portAccess t s
  | none => .next s

/-- `n` iterations, one after the other, each the micro-operation that UOP selects at its turn (44_host_access R149). -/
def coreIterations : Nat → State → Host.Outcome State Fault Refusal
  | 0, s => .next s
  | n + 1, s =>
    match exec (decodeMicroOp s.chip.uop) s with
    | .next s' => coreIterations n s'
    | .fault f => .fault f
    | .refused r => .refused r

/-- The iterations one core step makes: min(u, 10 - RND) with u = U_EXP for EXPAND and U_SEQ else (44_host_access R149). Where RND is 10 or more the step meets the unreachable word once and refuses (10_state R30; log 5). -/
def State.stepIterations (s : State) : Nat :=
  max 1 (min (if s.chip.mode = .expand then s.params.uExp else s.params.uSeq) (10 - s.chip.rnd.toNat))

/-- A core event: a core step while BUSY = 1, and no step otherwise (10_state R31, 44_host_access R149; log 8). -/
def coreStep (s : State) : Host.Outcome State Fault Refusal :=
  if s.chip.busy then coreIterations s.stepIterations s else exec (.noStep s.chip.rnd) s

/-- The value of a script operand, none for a variable never assigned. -/
def HostAgent.value? (h : HostAgent) : Operand → Option HostWord
  | .lit x => some x
  | .var n => (h.vars.find? (·.1 == n)).map (·.2)

/-- The variables with `n` assigned `x`, each name once. -/
def assignVar (n : HostVar) (x : HostWord) : List (HostVar × HostWord) → List (HostVar × HostWord)
  | [] => [(n, x)]
  | (m, y) :: vs => if m = n then (n, x) :: vs else (m, y) :: assignVar n x vs

/-- `name <- x` (30_encoding R81). -/
def HostAgent.assign (h : HostAgent) (name : HostVar) (x : HostWord) : HostAgent := { h with vars := assignVar name x h.vars }

/-- The host after a write that got an OK response: an EXPAND, ENCRYPT or DECRYPT leaves it waiting (44_host_access R150, log 23). The response says that the command was accepted, since a command with an unwritten operand gets none. -/
def HostAgent.afterWrite (h : HostAgent) (off : BitVec 8) (x : HostWord) : HostAgent :=
  { h with waiting := h.waiting || (decide (off = 0) && decide (1 ≤ x.toNat ∧ x.toNat ≤ 3)) }

/-- The host after a read that returned `x`: only a read of STATUS with BUSY = 0 ends its waiting (44_host_access R150, R151). -/
def HostAgent.afterRead (h : HostAgent) (off : BitVec 8) (x : HostWord) : HostAgent :=
  { h with waiting := h.waiting && !(decide (off = 0x04) && !x.getLsbD 0) }

/-- The host after one read of a WAIT loop that returned `x`: `s` is assigned, and the loop is left for `rest` where `x` shows BUSY = 0 (30_encoding R82). -/
def HostAgent.afterPoll (h : HostAgent) (rest : List HostLine) (x : HostWord) : HostAgent :=
  { h.assign .s x with script := if x.getLsbD 0 then h.script else rest }

/-- The state with another host. -/
def State.withHost (s : State) (h : HostAgent) : State := { s with host := h }

/-- The host's program does not continue (60_exceptions R162). -/
def State.haltHost (s : State) : State := s.withHost { s.host with halted := true }

/-- What the host does with the answer to an access of its script: it goes on with `next` of the read data after an OK response, and stops where the access was a fault (60_exceptions R162). -/
def hostContinue (next : Option HostWord → HostAgent) : Host.Outcome State Fault Refusal → Host.Outcome State Fault Refusal
  | .next s =>
    match s.rsp with
    | some ⟨d, false⟩ => .next (s.withHost (next d))
    | some ⟨_, true⟩ => .next s.haltHost
    | none => .next s.haltHost
  | .fault f => .fault f
  | .refused r => .refused r

/-- A 32-bit read by the host's script, which goes on with `next` of the value read. -/
def hostReadLine (off : BitVec 8) (s : State) (next : HostWord → HostAgent) : Host.Outcome State Fault Refusal :=
  hostContinue (fun d => match d with
    | some x => (next x).afterRead off x
    | none => s.host) (portAccess ⟨.read, off, 4, 0⟩ s)

/-- The issue of one line by the host of state `s`, whose script goes on with `rest`. A line that uses a variable never assigned stops the host (log 10); a refused driver call changes REFUSED alone and so stays the next line (60_exceptions R163; log 12). -/
def issueLine (line : HostLine) (rest : List HostLine) (s : State) : Host.Outcome State Fault Refusal :=
  let h : HostAgent := { s.host with script := rest }
  match line with
  | .wr32 off x =>
    match s.host.value? x with
    | some v => hostContinue (fun _ => h.afterWrite off v) (portAccess ⟨.write, off, 4, v⟩ s)
    | none => .next s.haltHost
  | .rd32 off name => hostReadLine off s (h.assign name)
  | .rdOut off => hostReadLine off s fun x => { h with out := h.out ++ bytesOfWord x }
  | .wait => hostReadLine 0x04 s (s.host.afterPoll rest)
  | .call c =>
    match planCall c with
    | .refuse => .next s.refuse
    | .done r => .next (s.withHost { h with results := h.results ++ [r] })
    | .run lines => .next (s.withHost { h with script := lines ++ rest, out := [] })
  | .retBytes => .next (s.withHost { h with out := [], results := h.results ++ [.bytes h.out] })
  | .retSchedule => .next (s.withHost { h with out := [], results := h.results ++ [.schedule (sixteens 10 h.out)] })

/-- A host event: the next line of the script, if there is one and the host has not stopped. -/
def hostTurn (s : State) : Host.Outcome State Fault Refusal :=
  match s.host.halted, s.host.script with
  | false, line :: rest => issueLine line rest s
  | false, [] => .next s
  | true, _ => .next s

/-- One event. -/
def runEvent (e : Event) (s : State) : Host.Outcome State Fault Refusal :=
  match e with
  | .host => hostTurn s
  | .access a => busAccess a s
  | .core => coreStep s
  | .reset => .next s.resetEvent

/-- The event that falls next: the agenda's first. When the agenda is used up, the core's step while it has one, and else the host's: this order is fair to the core (44_host_access R148; log 3). -/
def State.nextEvent (s : State) : Event :=
  match s.agenda with
  | e :: _ => e
  | [] => if s.chip.busy then .core else .host

/-- The state with the agenda's first event taken off. -/
def State.popEvent (s : State) : State := { s with agenda := s.agenda.tail }

/-- The event and the state that present a command word, a micro-operation word or a transaction as the very next thing the machine does (log 18). -/
def State.presentCommand (s : State) (v : HostWord) : State :=
  { s with agenda := .access ⟨.write, s.params.base, 4, v⟩ :: s.agenda }

/-- See `State.presentCommand`: UOP is MODE ++ RND, BUSY says that a mode runs, and one core step makes one iteration. -/
def State.presentMicroOp (s : State) (u : BitVec 6) : State :=
  { s with
    chip := { s.chip with
      mode := Mode.ofBits (u.extractLsb' 4 2)
      rnd := u.extractLsb' 0 4
      busy := decide (u.extractLsb' 4 2 ≠ 0) }
    params := { s.params with uExpLess1 := 0, uSeqLess1 := 0 }
    agenda := .core :: s.agenda }

/-- See `State.presentCommand`. -/
def State.presentTransaction (s : State) (t : Transaction) : State :=
  { s with agenda := .access ⟨t.dir, s.params.base + t.off.toNat, t.size, t.wdata⟩ :: s.agenda }

/-- The state in which the word `w` of `nbits` bits is what the machine runs next; a number that is no encoded operation changes nothing. -/
def State.present (s : State) (nbits w : Nat) : State :=
  if nbits = 8 then s.presentMicroOp (BitVec.ofNat 6 w)
  else if nbits = 32 then s.presentCommand (BitVec.ofNat 32 w)
  else if nbits = 48 then s.presentTransaction (.ofPorts (BitVec.ofNat 44 w))
  else s

end Sys2Proof.Machine
end

