-- ==== Sys2Proof/Machine/Step.lean ====
section
/-! DEFINITION. The step: the next event happens (20_memory R57, 44_host_access R148). -/

namespace Sys2Proof.Machine

/-- One step is one event. -/
def step (s : State) : Host.Outcome State Fault Refusal := runEvent s.nextEvent s.popEvent

/-- The state in which the very next step runs the operation of the word `w` (log 18). -/
def State.withFetchWord (s : State) (nbits w : Nat) : State := s.present nbits w

end Sys2Proof.Machine
end

