-- ==== Sys2Proof/Safety.lean ====
section
/-! DEFINITION. What counts as a good run (44_host_access R150), the launch premise (70_reset_and_hazards R179), and the invariants of the state (10_state R32, R33, R39; 44_host_access R149). -/

namespace Sys2Proof.Machine

/-- FAULTS is empty and REFUSED is 0: what a good end of a run needs (44_host_access R150). -/
def State.clean (s : State) : Prop := s.faults = .none ∧ s.refused = false

/-- The run has ended: the host's program is done, did not stop at a fault, and has read BUSY = 0 after the last command it had accepted (44_host_access R150; log 23). No field of the block is read here, so that no later event of the block undoes the end (92_eei_decisions D37). -/
def State.ended (s : State) : Prop := s.host.script = [] ∧ s.host.halted = false ∧ s.host.waiting = false

/-- The run has ended good: it has ended, FAULTS is empty and REFUSED is 0 (44_host_access R150). -/
def State.endedGood (s : State) : Prop := s.ended ∧ s.clean

/-- The registers a host may read at an idle block, of whose words the written ones hold a value (20_memory R44, R48). ST is none of them (10_state R40, 60_exceptions R175). -/
structure HostRegisters where
  key : Reg
  rk : Vector Reg 10
  din : Reg
  dout : Reg
deriving DecidableEq, Repr

/-- The registers a host can see: none while BUSY = 1, when only STATUS may be read, so that the partial RK of a running EXPAND is not seen (20_memory R49, 10_state R40, 60_exceptions R175). -/
def Chip.visible? (c : Chip) : Option HostRegisters :=
  if c.busy then none else some ⟨c.key, c.rk, c.din, c.dout⟩

/-- The observation of a run: the host's variables and its driver calls' results, STATUS, and the registers a host can see (44_host_access R150; log 11 for the results). A claim must not rest on RND and MODE of a STATUS with BUSY = 1 (10_state R40). -/
structure Observation where
  vars : List (HostVar × HostWord)
  results : List DriverResult
  status : HostWord
  registers : Option HostRegisters
deriving DecidableEq, Repr

/-- What is observed of a state (44_host_access R150). -/
def State.observe (s : State) : Observation where
  vars := s.host.vars
  results := s.host.results
  status := s.chip.statusWord
  registers := s.chip.visible?

/-- The run from `s` reaches its end at `t`: `t` is the FIRST of its states at which it has ended. DESIGN CHOICE (log 24): the spec does not say at which state a run ends, or is observed, when accesses of other masters, core steps or resets still follow after the modelled host is done; here none of them belongs to the run. -/
def State.EndsAt (s t : State) : Prop :=
  ∃ n, Sys2Proof.core.run n s = .next t ∧ t.ended ∧ ∀ m u, m < n → Sys2Proof.core.run m s = .next u → ¬u.ended

/-- The run from `s` ends good with the observation `o`, taken at its end (44_host_access R150). Nothing is said of the number of its core steps or STATUS reads. That the end is the first ended state is the model's choice (DESIGN CHOICE, log 24). -/
def State.EndsGoodWith (s : State) (o : Observation) : Prop := ∃ t, s.EndsAt t ∧ t.clean ∧ t.observe = o

/-- CLEAN_ENTRY, the launch premise (70_reset_and_hazards R179). -/
def State.cleanEntry (s : State) : Prop := s.chip = .reset ∧ s.clean

/-- `t` differs from `s` at most in the block, FAULTS and the response: REFUSED, the parameters, the host and the agenda are the same. -/
def State.SameAround (s t : State) : Prop :=
  t.refused = s.refused ∧ t.params = s.params ∧ t.host = s.host ∧ t.agenda = s.agenda

/-- `t` is `s` with the block `c` and perhaps another response; nothing else differs. -/
def State.ChangedTo (s : State) (c : Chip) (t : State) : Prop := t.chip = c ∧ t.faults = s.faults ∧ s.SameAround t

/-- `t` is what the model fault `f` leaves of `s`: the name is in FAULTS, no value is returned, and nothing else but the response differs (60_exceptions R162). -/
def State.FaultedTo (s : State) (f : Fault) (t : State) : Prop :=
  t.chip = s.chip ∧ t.faults = s.faults.insert f ∧ t.rsp.bind Response.rdata = none ∧ s.SameAround t

/-- The invariants (a) to (d) of 10_state R39. -/
def Chip.SequencerOk (c : Chip) : Prop :=
  (c.busy = true ↔ c.mode ≠ .idle) ∧ (c.mode = .idle → c.rnd = 0) ∧ (c.mode ≠ .idle → c.rnd.toNat ≤ 9) ∧
    (c.mode = .encrypt ∨ c.mode = .decrypt → c.st.isSome = true)

/-- Only the codes 0, 1 and 2 are ever in ERR (10_state R33, 60_exceptions R158). -/
def Chip.ErrLegal (c : Chip) : Prop := c.err.toNat ≤ 2

/-- The operands of the command in progress are written: KEY, and for EXPAND the round keys its iterations have written so far, for ENCRYPT and DECRYPT the whole schedule (44_host_access R145, R149). -/
def Chip.OperandsHeld (c : Chip) : Prop :=
  (c.mode ≠ .idle → c.key.isWritten = true) ∧
    (c.mode = .expand → ∀ j : Fin 10, j.val < c.rnd.toNat → (c.roundKey? j).isSome = true) ∧
    (c.mode = .encrypt ∨ c.mode = .decrypt → c.scheduleWritten = true)

/-- RK[j] is entry j of the expansion of the key `k`. -/
def Chip.HoldsRoundKey (c : Chip) (k : Block) (j : Fin 10) : Prop :=
  c.rk[j.val]'j.isLt = .ofBlock ((expandKey128 k)[j.val]'j.isLt)

/-- What KSV = 1 means, and what a running EXPAND has done so far (10_state R32, 41_key_expansion R112): KEY is written; every RK[j] is ExpandKey128(KEY)[j] if KSV = 1, and every RK[j] with j < RND is during an EXPAND. -/
def Chip.ScheduleOk (c : Chip) : Prop :=
  (c.ksv = true → ∃ k, c.key.block? = some k ∧ ∀ j : Fin 10, c.HoldsRoundKey k j) ∧
    (c.mode = .expand → ∃ k, c.key.block? = some k ∧ ∀ j : Fin 10, j.val < c.rnd.toNat → c.HoldsRoundKey k j)

end Sys2Proof.Machine
end

