-- ==== Sys2Proof/Certificates/Slice0/Obligations.lean ====
section
/-! DEFINITION. The statements about the machine, each from numbered rules of spec/. -/

open Sys2Proof Sys2Proof.Machine

/-! ## Encoding -/

/-- Every well-formed operation is what its encoded word decodes to (30_encoding R69, R75, R78). The order of a transaction's port bits is the model's (DESIGN CHOICE, log 13). -/
def Obligations.DecodeUndoesEncode : Prop := ∀ i : Instr, WellFormed i → decode (encode i) = i

/-- Every command word and every micro-operation word decodes to a row of the opcode table that encodes to the same word, and so does every transaction of a legal size and offset, but for a write at offset 0 and for data presented with a read (30_encoding R70, R73, R75, R78). The order of a transaction's port bits is the model's (DESIGN CHOICE, log 13). -/
def Obligations.EncodeUndoesDecode : Prop :=
  (∀ v : BitVec 32, WellFormed (decodeCommand v) ∧ encode (decodeCommand v) = .command v) ∧
    (∀ u : BitVec 6, WellFormed (decodeMicroOp u) ∧ encode (decodeMicroOp u) = .microOp u) ∧
    (∀ p : BitVec 44, (Transaction.ofPorts p).size = 4 → (Transaction.ofPorts p).off.toNat % 4 = 0 →
      ((Transaction.ofPorts p).dir = .read → (Transaction.ofPorts p).wdata = 0) →
      ((Transaction.ofPorts p).dir = .write → (Transaction.ofPorts p).off ≠ 0) →
      WellFormed (decode (.transaction p)) ∧ encode (decode (.transaction p)) = .transaction p)

/-- Command decoding is total, and each word has exactly one of the six outcomes (30_encoding R70). -/
def Obligations.CommandDecodingHasSixOutcomes : Prop :=
  ∀ v : BitVec 32,
    (v.extractLsb' 4 28 ≠ 0 → decodeCommand v = .rsvdBits (v.extractLsb' 4 28) (v.extractLsb' 0 4)) ∧
    (4 ≤ v.toNat ∧ v.toNat < 16 → decodeCommand v = .illegalCmd (v.extractLsb' 0 4)) ∧
    (v.toNat = 0 → decodeCommand v = .clear) ∧ (v.toNat = 1 → decodeCommand v = .expand) ∧
    (v.toNat = 2 → decodeCommand v = .encrypt) ∧ (v.toNat = 3 → decodeCommand v = .decrypt) ∧
    (v.extractLsb' 4 28 ≠ 0 ↔ 16 ≤ v.toNat)

/-- The table of micro-operations, row by row (30_encoding R75, R77). -/
def Obligations.MicroOpTableRows : Prop :=
  ∀ r : BitVec 4,
    decodeMicroOp (0b00#2 ++ r) = .noStep r ∧
    (r.toNat = 0 → decodeMicroOp (0b01#2 ++ r) = .expFirst ∧ decodeMicroOp (0b10#2 ++ r) = .encFirst ∧
      decodeMicroOp (0b11#2 ++ r) = .decFirst) ∧
    (1 ≤ r.toNat ∧ r.toNat ≤ 8 → decodeMicroOp (0b01#2 ++ r) = .expNext r ∧ decodeMicroOp (0b10#2 ++ r) = .encMid r ∧
      decodeMicroOp (0b11#2 ++ r) = .decMid r) ∧
    (r.toNat = 9 → decodeMicroOp (0b01#2 ++ r) = .expLast ∧ decodeMicroOp (0b10#2 ++ r) = .encLast ∧
      decodeMicroOp (0b11#2 ++ r) = .decLast) ∧
    (10 ≤ r.toNat → decodeMicroOp (0b01#2 ++ r) = .unreachable 0b01 r ∧
      decodeMicroOp (0b10#2 ++ r) = .unreachable 0b10 r ∧ decodeMicroOp (0b11#2 ++ r) = .unreachable 0b11 r)

/-- Words written out from the spec's encodings decode to the operations they stand for (30_encoding R69, R75, R84). That the 6-bit word of a micro-operation is held in 8 bits, the upper two zero, is the model's choice (DESIGN CHOICE, log 13). -/
def Obligations.SpecWordsDecode : Prop :=
  decodeTableWord 32 0x00000000 = some .clear ∧ decodeTableWord 32 0x00000003 = some .decrypt ∧
    decodeTableWord 32 0x00000007 = some (.illegalCmd 7) ∧ decodeTableWord 32 0x00000012 = some (.rsvdBits 1 2) ∧
    decodeTableWord 8 0b00010000 = some .expFirst ∧ decodeTableWord 8 0b00101000 = some (.encMid 8) ∧
    decodeTableWord 8 0b00111001 = some .decLast ∧ decodeTableWord 8 0b00011010 = some (.unreachable 0b01 10)

/-! ## A step runs the decoded operation -/

/-- With one iteration a core step, the core's event runs the operation UOP selects (44_host_access R149, 30_encoding R74). The order of events is the model's agenda (DESIGN CHOICE, log 3). With RND in 10..15 the word is the unreachable one, and that the step meets it once is DEDUCED from 10_state R30 and 30_encoding R77 (log 5). That a block with BUSY = 1 and MODE = IDLE, which no run reaches, runs NO_STEP is DEDUCED (log 8). -/
def Obligations.StepRunsSelectedMicroOp : Prop :=
  ∀ s : State, s.nextEvent = .core → s.chip.busy = true →
    (if s.chip.mode = .expand then s.params.uExp else s.params.uSeq) = 1 →
    step s = exec (decodeMicroOp s.chip.uop) s.popEvent

/-- A bus master's access inside the window runs the operation its transaction decodes to (30_encoding R78, 44_host_access R139 to R141). The order of events is the model's agenda (DESIGN CHOICE, log 3). That an access outside the window does not reach the block is DEDUCED (log 16). -/
def Obligations.StepRunsBusTransaction : Prop :=
  ∀ (s : State) (a : Access) (rest : List Event), s.agenda = .access a :: rest →
    s.params.base ≤ a.addr → a.addr < s.params.base + 256 →
    step s = exec (decodeTransaction ⟨a.dir, BitVec.ofNat 8 (a.addr - s.params.base), a.size, a.wdata⟩) s.popEvent

/-- A line of the host's script runs the operation of its 32-bit access, and the host goes on to the rest of its script after an OK response (30_encoding R81). A write of an accepted EXPAND, ENCRYPT or DECRYPT does not end the run, even at the end of the script (44_host_access R150). The host agent and the order of events are the model's (DESIGN CHOICE, logs 3 and 10), and what ends the host's waiting is DEDUCED (log 23). -/
def Obligations.StepRunsScriptAccess : Prop :=
  ∀ (s t : State) (off : BitVec 8) (x : HostWord) (name : HostVar) (rest : List HostLine),
    s.nextEvent = .host → s.host.halted = false →
    (s.host.script = .wr32 off (.lit x) :: rest →
      exec (decodeTransaction ⟨.write, off, 4, x⟩) s.popEvent = .next t → t.rsp = some ⟨none, false⟩ →
      step s = .next (t.withHost ({ s.host with script := rest }.afterWrite off x)) ∧
        (off = 0 → 1 ≤ x.toNat → x.toNat ≤ 3 → ¬(t.withHost ({ s.host with script := rest }.afterWrite off x)).ended)) ∧
    (s.host.script = .rd32 off name :: rest →
      exec (decodeTransaction ⟨.read, off, 4, 0⟩) s.popEvent = .next t → t.rsp = some ⟨some x, false⟩ →
      step s = .next (t.withHost
        ({ s.host with script := rest, vars := assignVar name x s.host.vars }.afterRead off x)))

/-! ## Commands -/

/-- CLEAR (44_host_access R142). -/
def Obligations.ClearCommandResult : Prop :=
  encode .clear = .command 0 ∧
    ∀ s : State,
      (s.chip.busy = false → ∃ t, exec .clear s = .next t ∧ s.ChangedTo { s.chip with err := 0 } t) ∧
      (s.chip.busy = true → ∃ t, exec .clear s = .next t ∧ s.FaultedTo .busy t)

/-- A reserved command code sets ERR to 1 if it was 0, and has no other effect (44_host_access R143). -/
def Obligations.ReservedCommandResult : Prop :=
  ∀ (v : BitVec 32) (s : State), 4 ≤ v.toNat → v.toNat < 16 →
    (s.chip.busy = false → ∃ t, exec (decodeCommand v) s = .next t ∧
      s.ChangedTo { s.chip with err := if s.chip.err = 0 then 1 else s.chip.err } t) ∧
    (s.chip.busy = true → ∃ t, exec (decodeCommand v) s = .next t ∧ s.FaultedTo .busy t)

/-- A command word with a reserved bit set sets ERR to 2 if it was 0, and has no other effect (44_host_access R144). -/
def Obligations.ReservedBitsResult : Prop :=
  ∀ (v : BitVec 32) (s : State), v.extractLsb' 4 28 ≠ 0 →
    (s.chip.busy = false → ∃ t, exec (decodeCommand v) s = .next t ∧
      s.ChangedTo { s.chip with err := if s.chip.err = 0 then 2 else s.chip.err } t) ∧
    (s.chip.busy = true → ∃ t, exec (decodeCommand v) s = .next t ∧ s.FaultedTo .busy t)

/-- EXPAND (41_key_expansion R114). -/
def Obligations.ExpandCommandResult : Prop :=
  encode .expand = .command 1 ∧
    ∀ s : State,
      (s.chip.busy = false → (∀ k : Fin 4, s.chip.key[k].isSome = true) → ∃ t, exec .expand s = .next t ∧
        s.ChangedTo { s.chip with mode := .expand, rnd := 0, busy := true } t) ∧
      (s.chip.busy = false → (∃ k : Fin 4, s.chip.key[k] = none) → ∃ t, exec .expand s = .next t ∧ s.FaultedTo .unwritten t) ∧
      (s.chip.busy = true → ∃ t, exec .expand s = .next t ∧ s.FaultedTo .busy t)

/-- ENCRYPT (42_encrypt R124): with every word of DIN, KEY and RK written it is accepted, ST taking DIN's value. -/
def Obligations.EncryptCommandResult : Prop :=
  encode .encrypt = .command 2 ∧
    ∀ s : State,
      (∀ v : Block, s.chip.busy = false → s.chip.din = .ofBlock v → (∀ k : Fin 4, s.chip.key[k].isSome = true) →
        (∀ (j : Fin 10) (k : Fin 4), s.chip.rk[j][k].isSome = true) → ∃ t, exec .encrypt s = .next t ∧
        s.ChangedTo { s.chip with st := some v, mode := .encrypt, rnd := 0, busy := true } t) ∧
      (s.chip.busy = false → (∃ k : Fin 4, s.chip.din[k] = none ∨ s.chip.key[k] = none ∨ ∃ j : Fin 10, s.chip.rk[j][k] = none) →
        ∃ t, exec .encrypt s = .next t ∧ s.FaultedTo .unwritten t) ∧
      (s.chip.busy = true → ∃ t, exec .encrypt s = .next t ∧ s.FaultedTo .busy t)

/-- DECRYPT (43_decrypt R133): as ENCRYPT, with its own mode. -/
def Obligations.DecryptCommandResult : Prop :=
  encode .decrypt = .command 3 ∧
    ∀ s : State,
      (∀ v : Block, s.chip.busy = false → s.chip.din = .ofBlock v → (∀ k : Fin 4, s.chip.key[k].isSome = true) →
        (∀ (j : Fin 10) (k : Fin 4), s.chip.rk[j][k].isSome = true) → ∃ t, exec .decrypt s = .next t ∧
        s.ChangedTo { s.chip with st := some v, mode := .decrypt, rnd := 0, busy := true } t) ∧
      (s.chip.busy = false → (∃ k : Fin 4, s.chip.din[k] = none ∨ s.chip.key[k] = none ∨ ∃ j : Fin 10, s.chip.rk[j][k] = none) →
        ∃ t, exec .decrypt s = .next t ∧ s.FaultedTo .unwritten t) ∧
      (s.chip.busy = true → ∃ t, exec .decrypt s = .next t ∧ s.FaultedTo .busy t)

/-- A 32-bit write at offset 0 has the effect of the command its word encodes (44_host_access R141). -/
def Obligations.CtrlWriteRunsItsCommand : Prop :=
  ∀ (v : HostWord) (s : State), exec (.wr32 0 4 v) s = exec (decodeCommand v) s

/-- A nonzero ERR stays until a CLEAR: no other operation changes it (10_state R33, 60_exceptions R159). -/
def Obligations.ErrorStaysUntilClear : Prop :=
  ∀ (i : Instr) (s t : State), exec i s = .next t → s.chip.err ≠ 0 →
    t.chip.err = s.chip.err ∨ (t.chip.err = 0 ∧ s.chip.busy = false ∧ (i = .clear ∨ i = .wr32 0 4 0))

/-! ## Micro-operations -/

/-- EXP_FIRST, EXP_NEXT and EXP_LAST: the round key each writes, and what becomes of RND, KSV, MODE and BUSY (41_key_expansion R115 to R117). -/
def Obligations.ExpandIterationResults : Prop :=
  (∀ (s : State) (k : Block), s.chip.key.block? = some k →
    exec .expFirst s = .next (s.withChip { s.chip with
      rk := s.chip.rk.set 0 (.ofBlock (nextRoundKey k (rcon 1))), rnd := 1 })) ∧
  (∀ (s : State) (r : BitVec 4) (h1 : 1 ≤ r.toNat) (h8 : r.toNat ≤ 8) (p : Block), (s.chip.rk[r.toNat - 1]).block? = some p →
    exec (.expNext r) s = .next (s.withChip { s.chip with
      rk := s.chip.rk.set r.toNat (.ofBlock (nextRoundKey p (rcon (r.toNat + 1)))), rnd := BitVec.ofNat 4 (r.toNat + 1) })) ∧
  (∀ (s : State) (p : Block), s.chip.rk[8].block? = some p →
    exec .expLast s = .next (s.withChip { s.chip with
      rk := s.chip.rk.set 9 (.ofBlock (nextRoundKey p (rcon 10))), ksv := true, busy := false, mode := .idle, rnd := 0 }))

/-- ENC_FIRST, ENC_MID and ENC_LAST: the new ST, DOUT at completion, and what becomes of RND, MODE and BUSY (42_encrypt R125 to R127). -/
def Obligations.EncryptIterationResults : Prop :=
  (∀ (s : State) (v k : Block), s.chip.st = some v → s.chip.key.block? = some k →
    exec .encFirst s = .next (s.withChip { s.chip with st := some (mixColumns (aese v k)), rnd := 1 })) ∧
  (∀ (s : State) (r : BitVec 4) (h1 : 1 ≤ r.toNat) (h8 : r.toNat ≤ 8) (v k : Block), s.chip.st = some v →
    (s.chip.rk[r.toNat - 1]).block? = some k →
    exec (.encMid r) s = .next (s.withChip { s.chip with
      st := some (mixColumns (aese v k)), rnd := BitVec.ofNat 4 (r.toNat + 1) })) ∧
  (∀ (s : State) (v k8 k9 : Block), s.chip.st = some v → s.chip.rk[8].block? = some k8 → s.chip.rk[9].block? = some k9 →
    exec .encLast s = .next (s.withChip { s.chip with
      st := some ((aese v k8).xor k9), dout := .ofBlock ((aese v k8).xor k9), busy := false, mode := .idle, rnd := 0 }))

/-- DEC_FIRST, DEC_MID and DEC_LAST (43_decrypt R134 to R136). -/
def Obligations.DecryptIterationResults : Prop :=
  (∀ (s : State) (v k9 : Block), s.chip.st = some v → s.chip.rk[9].block? = some k9 →
    exec .decFirst s = .next (s.withChip { s.chip with st := some (aesd v k9), rnd := 1 })) ∧
  (∀ (s : State) (r : BitVec 4) (h1 : 1 ≤ r.toNat) (h8 : r.toNat ≤ 8) (v k : Block), s.chip.st = some v →
    (s.chip.rk[9 - r.toNat]).block? = some k →
    exec (.decMid r) s = .next (s.withChip { s.chip with
      st := some (aesd (invMixColumns v) (invMixColumns k)), rnd := BitVec.ofNat 4 (r.toNat + 1) })) ∧
  (∀ (s : State) (v k0 k : Block), s.chip.st = some v → s.chip.rk[0].block? = some k0 → s.chip.key.block? = some k →
    exec .decLast s = .next (s.withChip { s.chip with
      st := some ((aesd (invMixColumns v) (invMixColumns k0)).xor k),
      dout := .ofBlock ((aesd (invMixColumns v) (invMixColumns k0)).xor k), busy := false, mode := .idle, rnd := 0 }))

/-- The frame of the expander's iterations: each writes one round key, RND, and at completion KSV, MODE and BUSY, and nothing else (41_key_expansion R115 to R117). -/
def Obligations.ExpandIterationFrame : Prop :=
  ∀ (i : Instr) (n : Nat) (s t : State), (i = .expFirst ∧ n = 0) ∨ (∃ r, i = .expNext r ∧ n = r.toNat) ∨ (i = .expLast ∧ n = 9) →
    exec i s = .next t →
    t.chip.key = s.chip.key ∧ t.chip.din = s.chip.din ∧ t.chip.dout = s.chip.dout ∧ t.chip.st = s.chip.st ∧
      t.chip.err = s.chip.err ∧ (∀ j : Fin 10, j.val ≠ n → t.chip.rk[j] = s.chip.rk[j]) ∧
      (n ≠ 9 → t.chip.ksv = s.chip.ksv ∧ t.chip.mode = s.chip.mode ∧ t.chip.busy = s.chip.busy) ∧
      t.rsp = s.rsp ∧ s.SameAround t

/-- The frame of the cipher's iterations: each writes ST and RND, and at completion DOUT, MODE and BUSY, and nothing else; KEY, RK and DIN keep their values (42_encrypt R125 to R127, 43_decrypt R134 to R136). -/
def Obligations.CipherIterationFrame : Prop :=
  ∀ (i : Instr) (s t : State),
    i = .encFirst ∨ i = .encLast ∨ i = .decFirst ∨ i = .decLast ∨ (∃ r, i = .encMid r) ∨ (∃ r, i = .decMid r) →
    exec i s = .next t →
    t.chip.key = s.chip.key ∧ t.chip.rk = s.chip.rk ∧ t.chip.din = s.chip.din ∧ t.chip.ksv = s.chip.ksv ∧
      t.chip.err = s.chip.err ∧
      (i ≠ .encLast → i ≠ .decLast →
        t.chip.dout = s.chip.dout ∧ t.chip.mode = s.chip.mode ∧ t.chip.busy = s.chip.busy) ∧
      t.rsp = s.rsp ∧ s.SameAround t

/-- A micro-operation word with MODE not IDLE and RND in 10..15 is taken as no micro-operation: REFUSED is set and nothing else changes (30_encoding R77, 60_exceptions R163). -/
def Obligations.UnreachableWordsAreRefused : Prop :=
  ∀ s : State,
    (∀ (mode : BitVec 2) (rnd : BitVec 4), exec (.unreachable mode rnd) s = .next { s with refused := true }) ∧
    (s.chip.mode ≠ .idle → 10 ≤ s.chip.rnd.toNat → exec (decodeMicroOp s.chip.uop) s = .next { s with refused := true })

/-- The core has a step only while BUSY = 1: a core event at an idle block changes nothing (10_state R31, 30_encoding R77). That a core event may stand in the agenda of an idle block is the model's choice (logs 3 and 8). That the row NO_STEP changes nothing is DEDUCED, since R77 says only that such a step does not exist (log 7). -/
def Obligations.IdleCoreHasNoStep : Prop :=
  (∀ (r : BitVec 4) (s : State), exec (.noStep r) s = .next s) ∧
    ∀ s : State, s.nextEvent = .core → s.chip.busy = false → step s = .next s.popEvent

/-! ## Host accesses -/

/-- A STATUS read is answered in every state with the fields in their places and reserved bits 0, and has no side effect; a write to STATUS of an idle block is F_ACCESS (10_state R34). -/
def Obligations.StatusReadGivesFields : Prop :=
  ∀ s : State,
    (∃ (t : State) (w : HostWord), exec (.rd32 4 4) s = .next t ∧ t.rsp = some ⟨some w, false⟩ ∧ s.ChangedTo s.chip t ∧
      w.extractLsb' 0 1 = BitVec.ofBool s.chip.busy ∧ w.extractLsb' 1 1 = BitVec.ofBool s.chip.ksv ∧
      w.extractLsb' 2 2 = 0 ∧ w.extractLsb' 4 4 = s.chip.err ∧ w.extractLsb' 8 4 = s.chip.rnd ∧
      w.extractLsb' 12 2 = s.chip.mode.bits ∧ w.extractLsb' 14 18 = 0) ∧
    (s.chip.busy = false → ∀ x : HostWord, ∃ t, exec (.wr32 4 4 x) s = .next t ∧ s.FaultedTo .access t)

/-- A read of CTRL at an idle block returns 0 and has no side effect (10_state R35, 44_host_access R139). -/
def Obligations.CtrlReadsZero : Prop :=
  ∀ s : State, s.chip.busy = false →
    ∃ t, exec (.rd32 0 4) s = .next t ∧ t.rsp = some ⟨some 0, false⟩ ∧ s.ChangedTo s.chip t

/-- A read of a written KEY, DIN, DOUT or RK word of an idle block returns its value and has no side effect (20_memory R44, 44_host_access R139). -/
def Obligations.DataWordReadReturnsValue : Prop :=
  ∀ (s : State) (k : Fin 4) (x : HostWord), s.chip.busy = false →
    (s.chip.key[k] = some x → ∃ t, exec (.rd32 (BitVec.ofNat 8 (0x10 + 4 * k.val)) 4) s = .next t ∧
      t.rsp = some ⟨some x, false⟩ ∧ s.ChangedTo s.chip t) ∧
    (s.chip.din[k] = some x → ∃ t, exec (.rd32 (BitVec.ofNat 8 (0x20 + 4 * k.val)) 4) s = .next t ∧
      t.rsp = some ⟨some x, false⟩ ∧ s.ChangedTo s.chip t) ∧
    (s.chip.dout[k] = some x → ∃ t, exec (.rd32 (BitVec.ofNat 8 (0x30 + 4 * k.val)) 4) s = .next t ∧
      t.rsp = some ⟨some x, false⟩ ∧ s.ChangedTo s.chip t) ∧
    (∀ j : Fin 10, s.chip.rk[j][k] = some x →
      ∃ t, exec (.rd32 (BitVec.ofNat 8 (0x40 + 0x10 * j.val + 4 * k.val)) 4) s = .next t ∧
        t.rsp = some ⟨some x, false⟩ ∧ s.ChangedTo s.chip t)

/-- A write of a KEY, DIN or RK word of an idle block stores that word alone, and a KEY or RK word clears KSV (44_host_access R140). -/
def Obligations.DataWordWriteStoresWord : Prop :=
  ∀ (s : State) (k : Fin 4) (x : HostWord), s.chip.busy = false →
    (∃ t, exec (.wr32 (BitVec.ofNat 8 (0x10 + 4 * k.val)) 4 x) s = .next t ∧ t.rsp = some ⟨none, false⟩ ∧
      s.ChangedTo { s.chip with key := s.chip.key.set k.val (some x), ksv := false } t) ∧
    (∃ t, exec (.wr32 (BitVec.ofNat 8 (0x20 + 4 * k.val)) 4 x) s = .next t ∧ t.rsp = some ⟨none, false⟩ ∧
      s.ChangedTo { s.chip with din := s.chip.din.set k.val (some x) } t) ∧
    (∀ j : Fin 10, ∃ t, exec (.wr32 (BitVec.ofNat 8 (0x40 + 0x10 * j.val + 4 * k.val)) 4 x) s = .next t ∧
      t.rsp = some ⟨none, false⟩ ∧
      s.ChangedTo { s.chip with rk := s.chip.rk.set j.val (s.chip.rk[j].set k.val (some x)), ksv := false } t)

/-- A read of a word just written returns the value written, whatever the word held before (20_memory R57). -/
def Obligations.ReadAfterWriteReturnsValue : Prop :=
  ∀ (s : State) (off : BitVec 8) (x : HostWord), s.chip.busy = false → off.toNat % 4 = 0 → (locate off).isWritable = true →
    ∃ t u, exec (.wr32 off 4 x) s = .next t ∧ exec (.rd32 off 4) t = .next u ∧ u.rsp = some ⟨some x, false⟩

/-- The frame of a host write: no data word but the one at its offset changes, DOUT never, and MODE, RND, BUSY, ERR and ST only by a command at CTRL (44_host_access R140). -/
def Obligations.HostWriteFrame : Prop :=
  ∀ (s t : State) (off : BitVec 8) (size : Nat) (x : HostWord), exec (.wr32 off size x) s = .next t →
    (∀ l : Location, l ≠ locate off → t.chip.dataWord? l = s.chip.dataWord? l) ∧ t.chip.dout = s.chip.dout ∧
      (locate off ≠ .ctrl → t.chip.mode = s.chip.mode ∧ t.chip.rnd = s.chip.rnd ∧ t.chip.busy = s.chip.busy ∧
        t.chip.err = s.chip.err ∧ t.chip.st = s.chip.st) ∧
      ((∀ k, locate off ≠ .key k) → (∀ j k, locate off ≠ .rk j k) → t.chip.ksv = s.chip.ksv) ∧ s.SameAround t

/-- The offset of each round-key word, and the round-key word at each offset (20_memory R45). -/
def Obligations.RoundKeyWordOffsets : Prop :=
  (∀ (j : Fin 10) (k : Fin 4), locate (BitVec.ofNat 8 (0x40 + 0x10 * j.val + 4 * k.val)) = .rk j k) ∧
    ∀ off : BitVec 8, 0x40 ≤ off.toNat → off.toNat ≤ 0xDC → off.toNat % 4 = 0 → ∃ (j : Fin 10) (k : Fin 4),
      locate off = .rk j k ∧ j.val = (off.toNat - 0x40) / 16 ∧ k.val = (off.toNat - 0x40) % 16 / 4

/-- A host word holds its four bytes, the lowest-numbered one in the most significant place, and a write sets the bytes from the same places (20_memory R46). -/
def Obligations.HostWordPacking : Prop :=
  (∀ w : ByteWord, (packWord w).extractLsb' 24 8 = w.a0 ∧ (packWord w).extractLsb' 16 8 = w.a1 ∧
    (packWord w).extractLsb' 8 8 = w.a2 ∧ (packWord w).extractLsb' 0 8 = w.a3) ∧
    ∀ x : HostWord, (unpackWord x).a0 = x.extractLsb' 24 8 ∧ (unpackWord x).a1 = x.extractLsb' 16 8 ∧
      (unpackWord x).a2 = x.extractLsb' 8 8 ∧ (unpackWord x).a3 = x.extractLsb' 0 8 ∧ packWord (unpackWord x) = x

/-- The checks of an access in their order, the first that fails deciding alone: size, alignment and unmapped offsets; the busy restriction; permission; written-ness (20_memory R51, 60_exceptions R165). -/
def Obligations.AccessChecksInOrder : Prop :=
  ∀ (s : State) (off : BitVec 8) (size : Nat) (x : HostWord),
    let bad := size ≠ 4 ∨ off.toNat % 4 ≠ 0 ∨ off = 0x08 ∨ off = 0x0C ∨ 0xE0 ≤ off.toNat
    (bad → (∃ t, exec (.rd32 off size) s = .next t ∧ s.FaultedTo .access t) ∧
      ∃ t, exec (.wr32 off size x) s = .next t ∧ s.FaultedTo .access t) ∧
    (¬bad → s.chip.busy = true → (off ≠ 0x04 → ∃ t, exec (.rd32 off size) s = .next t ∧ s.FaultedTo .busy t) ∧
      ∃ t, exec (.wr32 off size x) s = .next t ∧ s.FaultedTo .busy t) ∧
    (¬bad → s.chip.busy = false → off = 0x04 ∨ (0x30 ≤ off.toNat ∧ off.toNat < 0x40) →
      ∃ t, exec (.wr32 off size x) s = .next t ∧ s.FaultedTo .access t) ∧
    (¬bad → s.chip.busy = false → s.chip.dataWord? (locate off) = some none →
      ∃ t, exec (.rd32 off size) s = .next t ∧ s.FaultedTo .unwritten t)

/-! ## Faults, refusals and what never changes -/

/-- An operation that records a fault changes nothing else but the response, which carries no value (60_exceptions R162). Where the response port stands after a fault is the model's choice (DESIGN CHOICE, log 9). -/
def Obligations.FaultsChangeNothingElse : Prop :=
  ∀ (i : Instr) (s t : State), exec i s = .next t → t.faults ≠ s.faults →
    t.chip = s.chip ∧ s.SameAround t ∧ (t.rsp = s.rsp ∨ t.rsp.bind Response.rdata = none)

/-- No step, reset included, takes a name out of FAULTS or clears REFUSED (10_state R37, R38). That a fault or refusal is recorded by a next state is DEDUCED (log 1). -/
def Obligations.MarksAreNeverCleared : Prop :=
  ∀ s t : State, step s = .next t →
    (∀ f : Fault, s.faults.has f = true → t.faults.has f = true) ∧ (s.refused = true → t.refused = true)

/-- The parameters are fixed for the machine (00_scope R7). That they stand in the state is the model's choice (DESIGN CHOICE, log 4). -/
def Obligations.ParametersNeverChange : Prop := ∀ s t : State, step s = .next t → t.params = s.params

/-! ## Reset -/

/-- Power-on is CLEAN_ENTRY: every data word unwritten, MODE, RND, BUSY, KSV and ERR zero, STATUS reading 0, FAULTS empty, REFUSED 0 (10_state R41, 70_reset_and_hazards R178, R179). -/
def Obligations.PowerOnIsCleanEntry : Prop :=
  State.reset.cleanEntry ∧
    (∀ k : Fin 4, State.reset.chip.key[k] = none ∧ State.reset.chip.din[k] = none ∧ State.reset.chip.dout[k] = none ∧
      ∀ j : Fin 10, State.reset.chip.rk[j][k] = none) ∧
    State.reset.chip.st = none ∧ State.reset.chip.mode = .idle ∧ State.reset.chip.rnd = 0 ∧
    State.reset.chip.busy = false ∧ State.reset.chip.ksv = false ∧ State.reset.chip.err = 0 ∧
    State.reset.chip.statusWord = 0

/-- The reset event leaves the block as at power-on, whatever was in progress, and keeps FAULTS and REFUSED (70_reset_and_hazards R177). The order of events is the model's agenda (DESIGN CHOICE, log 3). -/
def Obligations.ResetEventForcesReset : Prop :=
  ∀ s : State, s.nextEvent = .reset → ∃ t, step s = .next t ∧ t.chip = State.reset.chip ∧ t.faults = s.faults ∧ t.refused = s.refused

/-! ## Invariants -/

/-- The state at reset meets every invariant below (10_state R39, R41). -/
def Obligations.ResetMeetsInvariants : Prop :=
  State.reset.chip.SequencerOk ∧ State.reset.chip.ErrLegal ∧ State.reset.chip.OperandsHeld ∧ State.reset.chip.ScheduleOk

/-- Every step keeps the invariants (a) to (d) of the sequencer (10_state R39). -/
def Obligations.StepKeepsSequencerInvariant : Prop :=
  ∀ s t : State, s.chip.SequencerOk → step s = .next t → t.chip.SequencerOk

/-- Every step keeps ERR at one of the codes 0, 1 and 2 (10_state R33, 60_exceptions R158). -/
def Obligations.StepKeepsErrLegal : Prop := ∀ s t : State, s.chip.ErrLegal → step s = .next t → t.chip.ErrLegal

/-- Every step keeps the operands of the command in progress written (44_host_access R149). -/
def Obligations.StepKeepsOperandsWritten : Prop :=
  ∀ s t : State, s.chip.SequencerOk → s.chip.OperandsHeld → step s = .next t → t.chip.OperandsHeld

/-- A core step has no exception: it ends in a next state, records no fault, refuses nothing, and either completes the command or moves RND on by the iterations of one core step (44_host_access R149). The order of events is the model's agenda (DESIGN CHOICE, log 3). -/
def Obligations.CoreStepHasNoException : Prop :=
  ∀ s : State, s.chip.SequencerOk → s.chip.OperandsHeld → s.chip.busy = true → s.nextEvent = .core →
    let u := if s.chip.mode = .expand then s.params.uExp else s.params.uSeq
    ∃ t, step s = .next t ∧ t.faults = s.faults ∧ t.refused = s.refused ∧
      (10 ≤ s.chip.rnd.toNat + u → t.chip.busy = false ∧ t.chip.mode = .idle ∧ t.chip.rnd = 0) ∧
      (s.chip.rnd.toNat + u < 10 → t.chip.busy = true ∧ t.chip.mode = s.chip.mode ∧ t.chip.rnd.toNat = s.chip.rnd.toNat + u)

/-- Every step keeps KSV's meaning: KSV = 1 says that RK[0..9] is ExpandKey128(KEY) (10_state R32). -/
def Obligations.StepKeepsScheduleValidity : Prop :=
  ∀ s t : State, s.chip.SequencerOk → s.chip.ScheduleOk → step s = .next t → t.chip.ScheduleOk

/-! ## Whole commands -/

/-- An accepted EXPAND completes in ceil(10 / U_EXP) core steps, for every U_EXP, with RK = ExpandKey128(KEY), KSV = 1 and nothing else of the machine changed (41_key_expansion R118, R119). The order of events is the model's agenda (DESIGN CHOICE, log 3). The empty agenda leaves out STATUS reads that fall between the core steps. -/
def Obligations.ExpandRunWritesSchedule : Prop :=
  ∀ (s : State) (k : Block), s.agenda = [] → s.chip.busy = true → s.chip.mode = .expand → s.chip.rnd = 0 →
    s.chip.key.block? = some k →
    Sys2Proof.core.run ((10 + s.params.uExp - 1) / s.params.uExp) s = .next (s.withChip { s.chip with
      rk := (expandKey128 k).map Reg.ofBlock, ksv := true, busy := false, mode := .idle, rnd := 0 })

/-- An accepted ENCRYPT completes in ceil(10 / U_SEQ) core steps, for every U_SEQ, with DOUT = Encrypt128(KEY, RK, ST) and nothing else changed but ST (42_encrypt R123, R129). The order of events is the model's agenda (DESIGN CHOICE, log 3). The empty agenda leaves out STATUS reads that fall between the core steps. -/
def Obligations.EncryptRunWritesCiphertext : Prop :=
  ∀ (s : State) (k p : Block) (rk : Vector Block 10), s.agenda = [] → s.chip.busy = true → s.chip.mode = .encrypt →
    s.chip.rnd = 0 → s.chip.st = some p → s.chip.key.block? = some k → (∀ j : Fin 10, s.chip.rk[j].block? = some rk[j]) →
    Sys2Proof.core.run ((10 + s.params.uSeq - 1) / s.params.uSeq) s = .next (s.withChip { s.chip with
      st := some (encrypt128 k rk p), dout := .ofBlock (encrypt128 k rk p), busy := false, mode := .idle, rnd := 0 })

/-- An accepted DECRYPT completes in ceil(10 / U_SEQ) core steps, for every U_SEQ, with DOUT = Decrypt128(KEY, RK, ST) and nothing else changed but ST (43_decrypt R132, R138). The order of events is the model's agenda (DESIGN CHOICE, log 3). The empty agenda leaves out STATUS reads that fall between the core steps. -/
def Obligations.DecryptRunWritesPlaintext : Prop :=
  ∀ (s : State) (k c : Block) (rk : Vector Block 10), s.agenda = [] → s.chip.busy = true → s.chip.mode = .decrypt →
    s.chip.rnd = 0 → s.chip.st = some c → s.chip.key.block? = some k → (∀ j : Fin 10, s.chip.rk[j].block? = some rk[j]) →
    Sys2Proof.core.run ((10 + s.params.uSeq - 1) / s.params.uSeq) s = .next (s.withChip { s.chip with
      st := some (decrypt128 k rk c), dout := .ofBlock (decrypt128 k rk c), busy := false, mode := .idle, rnd := 0 })

/-- Decryption inverts encryption, and encryption decryption, for every key, every schedule and every block (43_decrypt R137). -/
def Obligations.DecryptInvertsEncrypt : Prop :=
  ∀ (k : Block) (rk : Vector Block 10) (p : Block),
    decrypt128 k rk (encrypt128 k rk p) = p ∧ encrypt128 k rk (decrypt128 k rk p) = p

/-- The expander's round is the source's four words: NextRoundKey gives words 4j+4 to 4j+7 from words 4j to 4j+3, and ExpandKey128 is its iteration (41_key_expansion R111 to R113). -/
def Obligations.ExpansionByWords : Prop :=
  ∀ k : Block,
    let word := fun i => (expandedWords k 40).getD i ⟨0, 0, 0, 0⟩
    let fourWords := fun i => (⟨word i, word (i + 1), word (i + 2), word (i + 3)⟩ : Block)
    (∀ j : Fin 10, nextRoundKey (fourWords (4 * j.val)) (rcon (j.val + 1)) = fourWords (4 * j.val + 4) ∧
      (expandKey128 k)[j] = fourWords (4 * j.val + 4)) ∧
    (expandKey128 k)[0] = nextRoundKey k (rcon 1) ∧
    ∀ j : Fin 9, (expandKey128 k)[j.val + 1] = nextRoundKey ((expandKey128 k)[j.val]) (rcon (j.val + 2))

/-- The algebraic laws of the round transforms (40_primitives R101, R107). -/
def Obligations.RoundTransformLaws : Prop :=
  ∀ s k : Block,
    invSubBytes (subBytes s) = s ∧ subBytes (invSubBytes s) = s ∧
    invShiftRows (shiftRows s) = s ∧ shiftRows (invShiftRows s) = s ∧
    subBytes (shiftRows s) = shiftRows (subBytes s) ∧ invSubBytes (invShiftRows s) = invShiftRows (invSubBytes s) ∧
    invMixColumns (mixColumns s) = s ∧ mixColumns (invMixColumns s) = s ∧
    invMixColumns (s.xor k) = (invMixColumns s).xor (invMixColumns k) ∧
    aesd (invMixColumns s) (invMixColumns k) = invSubBytes (invShiftRows (invMixColumns (s.xor k)))

/-- The field product is commutative and distributes over xor, and multiplying by 2 is xtime (40_primitives R85 to R88). -/
def Obligations.FieldProductLaws : Prop :=
  ∀ a b c : Byte, gmul a b = gmul b a ∧ gmul a (b ^^^ c) = gmul a b ^^^ gmul a c ∧ gmul a 2 = xtime a ∧ gmul a 1 = a

/-- SBOX is the affine map of the inverse in GF(2^8) (40_primitives R88, R89). -/
def Obligations.SboxIsAffineOfInverse : Prop :=
  (∀ a : Byte, sbox a = sboxAffine (ginv a)) ∧ (∀ a : Byte, a ≠ 0 → gmul a (ginv a) = 1) ∧ ginv 0 = 0

/-- The properties of SBOX that the spec lists (40_primitives R91). -/
def Obligations.SboxProperties : Prop :=
  (∀ a b : Byte, sbox a = sbox b → a = b) ∧ (∀ a : Byte, ∃ b, sbox b = a) ∧ (∀ a : Byte, invSbox (sbox a) = a) ∧
    (∀ a : Byte, sbox a ≠ a ∧ sbox a ≠ a ^^^ 0xFF) ∧
    sbox 0x00 = 0x63 ∧ sbox 0x01 = 0x7C ∧ sbox 0x53 = 0xED ∧ sbox 0xFF = 0x16 ∧ invSbox 0x63 = 0x00

/-- RCON is the doubling sequence from 1 (40_primitives R93). -/
def Obligations.RconDoubles : Prop := rcon 1 = 0x01 ∧ ∀ j : Fin 9, rcon (j.val + 2) = xtime (rcon (j.val + 1))

/-! ## The host and its driver -/

/-- One event of a WAIT reads STATUS into `s` (30_encoding R82). A WAIT ends only on a read of BUSY = 0: while BUSY = 1 the line stays, and at an idle block the host goes on, and its run ends good if the program is done and nothing was recorded (44_host_access R150). What an end is, is DEDUCED (log 23). The host agent and the order of events are the model's (DESIGN CHOICE, logs 3 and 10). -/
def Obligations.WaitEndsOnlyWhenIdle : Prop :=
  ∀ (s : State) (rest : List HostLine), s.nextEvent = .host → s.host.halted = false → s.host.script = .wait :: rest →
    ∃ t, step s = .next t ∧ t.chip = s.chip ∧ t.faults = s.faults ∧ t.refused = s.refused ∧ t.host.halted = false ∧
      t.host.vars = assignVar .s s.chip.statusWord s.host.vars ∧
      (s.chip.busy = true → t.host.script = .wait :: rest ∧ t.host.waiting = s.host.waiting) ∧
      (s.chip.busy = false → t.host.script = rest ∧ t.host.waiting = false ∧ (rest = [] → s.clean → t.endedGood))

/-- A script access that gets no OK response stops the host's program: its script is not taken further (60_exceptions R162). The host agent, its halt and the response port are the model's form of the rule (DESIGN CHOICE, logs 3, 9 and 10). -/
def Obligations.FaultStopsHostProgram : Prop :=
  ∀ (s t : State) (off : BitVec 8) (x : HostWord) (name : HostVar) (rest : List HostLine),
    s.nextEvent = .host → s.host.halted = false →
    (s.host.script = .wr32 off (.lit x) :: rest ∧ exec (decodeTransaction ⟨.write, off, 4, x⟩) s.popEvent = .next t) ∨
      (s.host.script = .rd32 off name :: rest ∧ exec (decodeTransaction ⟨.read, off, 4, 0⟩) s.popEvent = .next t) →
    t.rsp = none ∨ t.rsp = some ⟨none, true⟩ →
    step s = .next (t.withHost { s.host with halted := true }) ∧
      ∀ u, step (t.withHost { s.host with halted := true }) = .next u → u.host.script = s.host.script

/-- The driver's errors come before any access to the block: a key that is not 16 bytes, a length that is not a multiple of 16, and the empty output for length 0 (44_host_access R155). The host agent and the order of events are the model's (DESIGN CHOICE, logs 3 and 10). That the checks, the error and the empty result are one step is the model's choice, since the spec says only that they come before any access (DESIGN CHOICE, log 11). -/
def Obligations.DriverErrorsTouchNoBlock : Prop :=
  ∀ (s : State) (c : DriverCall) (rest : List HostLine) (key : List Byte) (sched : List (List Byte)) (input : List Byte),
    s.nextEvent = .host → s.host.halted = false → s.host.script = .call c :: rest →
    (c = .expandKey128 key ∧ key.length ≠ 16 ∨
        (c = .encrypt key sched 10 input ∨ c = .decrypt key sched 10 input) ∧ key.length ≠ 16 →
      step s = .next (s.popEvent.withHost { s.host with script := rest, results := s.host.results ++ [.error .invalidKeyLength] })) ∧
    ((c = .encrypt key sched 10 input ∨ c = .decrypt key sched 10 input) → key.length = 16 → input.length % 16 ≠ 0 →
      step s = .next (s.popEvent.withHost { s.host with script := rest, results := s.host.results ++ [.error .invalidLength] })) ∧
    ((c = .encrypt key sched 10 [] ∨ c = .decrypt key sched 10 []) → key.length = 16 → scheduleShape sched = true →
      step s = .next (s.popEvent.withHost { s.host with script := rest, results := s.host.results ++ [.bytes []] }))

/-- A driver call with rounds other than 10, or with a schedule that is not ten 16-byte round keys, sets REFUSED and changes nothing else (44_host_access R156, 60_exceptions R163). That a refused call stays the next line is DEDUCED (log 12), and the host agent is the model's (DESIGN CHOICE, logs 3 and 10). That the checks and the refusal are one step is the model's choice (DESIGN CHOICE, log 11). -/
def Obligations.DriverRefusals : Prop :=
  ∀ (s : State) (c : DriverCall) (rest : List HostLine) (key : List Byte) (sched : List (List Byte)) (rounds : BitVec 32)
    (input : List Byte),
    s.nextEvent = .host → s.host.halted = false → s.host.script = .call c :: rest →
    (c = .encrypt key sched rounds input ∨ c = .decrypt key sched rounds input) →
    rounds ≠ 10 ∨ (key.length = 16 ∧ input.length % 16 = 0 ∧ ¬(sched.length = 10 ∧ ∀ k ∈ sched, k.length = 16)) →
    step s = .next { s.popEvent with refused := true }

/-- The driver's Encrypt and Decrypt, run to their end on an idle block, return the transform of every block of the input in order, without a fault, for every U_SEQ, and the run ends good if it was clean (44_host_access R150, R153, R154). The driver as a script of accesses, and the order of events, are the model's form (DESIGN CHOICE, logs 3, 10 and 11). What an end is, is DEDUCED (log 23). -/
def Obligations.DriverReturnsTransformedBuffer : Prop :=
  ∀ (s : State) (key : List Byte) (sched : List (List Byte)) (input : List Byte),
    s.agenda = [] → s.chip.busy = false → s.host.halted = false →
    key.length = 16 → sched.length = 10 → (∀ k ∈ sched, k.length = 16) → input.length % 16 = 0 →
    (s.host.script = [.call (.encrypt key sched 10 input)] → ∃ n t, Sys2Proof.core.run n s = .next t ∧
      t.host.script = [] ∧ t.host.halted = false ∧ t.chip.busy = false ∧ t.faults = s.faults ∧ t.refused = s.refused ∧
      t.host.results = s.host.results ++ [.bytes (encryptBuffer key sched input)] ∧
      (s.host.waiting = false → s.clean → t.endedGood)) ∧
    (s.host.script = [.call (.decrypt key sched 10 input)] → ∃ n t, Sys2Proof.core.run n s = .next t ∧
      t.host.script = [] ∧ t.host.halted = false ∧ t.chip.busy = false ∧ t.faults = s.faults ∧ t.refused = s.refused ∧
      t.host.results = s.host.results ++ [.bytes (decryptBuffer key sched input)] ∧
      (s.host.waiting = false → s.clean → t.endedGood))

/-- The driver's ExpandKey128, run to its end on an idle block, returns the ten round keys of the key, for every U_EXP, and the run ends good if it was clean (44_host_access R150, R152). The driver as a script of accesses, and the order of events, are the model's form (DESIGN CHOICE, logs 3, 10 and 11). What an end is, is DEDUCED (log 23). -/
def Obligations.DriverReturnsSchedule : Prop :=
  ∀ (s : State) (key : List Byte), s.agenda = [] → s.chip.busy = false → s.host.halted = false → key.length = 16 →
    s.host.script = [.call (.expandKey128 key)] → ∃ n t, Sys2Proof.core.run n s = .next t ∧
      t.host.script = [] ∧ t.host.halted = false ∧ t.chip.busy = false ∧ t.faults = s.faults ∧ t.refused = s.refused ∧
      t.host.results = s.host.results ++ [.schedule (bytesOfSchedule (expandKey128 (blockOfBytes key)))] ∧
      (s.clean → t.endedGood)

/-- Decrypting an encrypted buffer gives the buffer back, for every key, every schedule and every buffer whose length is a multiple of 16 (44_host_access R154). -/
def Obligations.BufferRoundTrip : Prop :=
  ∀ (key : List Byte) (sched : List (List Byte)) (input : List Byte), input.length % 16 = 0 →
    decryptBuffer key sched (encryptBuffer key sched input) = input
end

