-- ==== Sys2Proof/Laws/State.lean ====
section
/-! SUPPORT. One lemma for each field and each named update of the state, so that no proof unfolds a record update. -/

namespace Sys2Proof.Machine

section ChipUpdates
variable (c : Chip) (v : Block) (x : HostWord) (r code : BitVec 4) (m : Mode) (b : Bool) (j : Fin 10) (l : Location)

@[simp] theorem Chip.storeRoundKey_key : (c.storeRoundKey j v).key = c.key := rfl
@[simp] theorem Chip.storeRoundKey_rk : (c.storeRoundKey j v).rk = c.rk.set j.val (.ofBlock v) j.isLt := rfl
@[simp] theorem Chip.storeRoundKey_din : (c.storeRoundKey j v).din = c.din := rfl
@[simp] theorem Chip.storeRoundKey_dout : (c.storeRoundKey j v).dout = c.dout := rfl
@[simp] theorem Chip.storeRoundKey_st : (c.storeRoundKey j v).st = c.st := rfl
@[simp] theorem Chip.storeRoundKey_mode : (c.storeRoundKey j v).mode = c.mode := rfl
@[simp] theorem Chip.storeRoundKey_rnd : (c.storeRoundKey j v).rnd = c.rnd := rfl
@[simp] theorem Chip.storeRoundKey_busy : (c.storeRoundKey j v).busy = c.busy := rfl
@[simp] theorem Chip.storeRoundKey_ksv : (c.storeRoundKey j v).ksv = c.ksv := rfl
@[simp] theorem Chip.storeRoundKey_err : (c.storeRoundKey j v).err = c.err := rfl

@[simp] theorem Chip.storeSt_key : (c.storeSt v).key = c.key := rfl
@[simp] theorem Chip.storeSt_rk : (c.storeSt v).rk = c.rk := rfl
@[simp] theorem Chip.storeSt_din : (c.storeSt v).din = c.din := rfl
@[simp] theorem Chip.storeSt_dout : (c.storeSt v).dout = c.dout := rfl
@[simp] theorem Chip.storeSt_st : (c.storeSt v).st = some v := rfl
@[simp] theorem Chip.storeSt_mode : (c.storeSt v).mode = c.mode := rfl
@[simp] theorem Chip.storeSt_rnd : (c.storeSt v).rnd = c.rnd := rfl
@[simp] theorem Chip.storeSt_busy : (c.storeSt v).busy = c.busy := rfl
@[simp] theorem Chip.storeSt_ksv : (c.storeSt v).ksv = c.ksv := rfl
@[simp] theorem Chip.storeSt_err : (c.storeSt v).err = c.err := rfl

@[simp] theorem Chip.storeDout_key : (c.storeDout v).key = c.key := rfl
@[simp] theorem Chip.storeDout_rk : (c.storeDout v).rk = c.rk := rfl
@[simp] theorem Chip.storeDout_din : (c.storeDout v).din = c.din := rfl
@[simp] theorem Chip.storeDout_dout : (c.storeDout v).dout = .ofBlock v := rfl
@[simp] theorem Chip.storeDout_st : (c.storeDout v).st = c.st := rfl
@[simp] theorem Chip.storeDout_mode : (c.storeDout v).mode = c.mode := rfl
@[simp] theorem Chip.storeDout_rnd : (c.storeDout v).rnd = c.rnd := rfl
@[simp] theorem Chip.storeDout_busy : (c.storeDout v).busy = c.busy := rfl
@[simp] theorem Chip.storeDout_ksv : (c.storeDout v).ksv = c.ksv := rfl
@[simp] theorem Chip.storeDout_err : (c.storeDout v).err = c.err := rfl

@[simp] theorem Chip.setRnd_key : (c.setRnd r).key = c.key := rfl
@[simp] theorem Chip.setRnd_rk : (c.setRnd r).rk = c.rk := rfl
@[simp] theorem Chip.setRnd_din : (c.setRnd r).din = c.din := rfl
@[simp] theorem Chip.setRnd_dout : (c.setRnd r).dout = c.dout := rfl
@[simp] theorem Chip.setRnd_st : (c.setRnd r).st = c.st := rfl
@[simp] theorem Chip.setRnd_mode : (c.setRnd r).mode = c.mode := rfl
@[simp] theorem Chip.setRnd_rnd : (c.setRnd r).rnd = r := rfl
@[simp] theorem Chip.setRnd_busy : (c.setRnd r).busy = c.busy := rfl
@[simp] theorem Chip.setRnd_ksv : (c.setRnd r).ksv = c.ksv := rfl
@[simp] theorem Chip.setRnd_err : (c.setRnd r).err = c.err := rfl

@[simp] theorem Chip.setKsv_key : (c.setKsv b).key = c.key := rfl
@[simp] theorem Chip.setKsv_rk : (c.setKsv b).rk = c.rk := rfl
@[simp] theorem Chip.setKsv_din : (c.setKsv b).din = c.din := rfl
@[simp] theorem Chip.setKsv_dout : (c.setKsv b).dout = c.dout := rfl
@[simp] theorem Chip.setKsv_st : (c.setKsv b).st = c.st := rfl
@[simp] theorem Chip.setKsv_mode : (c.setKsv b).mode = c.mode := rfl
@[simp] theorem Chip.setKsv_rnd : (c.setKsv b).rnd = c.rnd := rfl
@[simp] theorem Chip.setKsv_busy : (c.setKsv b).busy = c.busy := rfl
@[simp] theorem Chip.setKsv_ksv : (c.setKsv b).ksv = b := rfl
@[simp] theorem Chip.setKsv_err : (c.setKsv b).err = c.err := rfl

@[simp] theorem Chip.start_key : (c.start m).key = c.key := rfl
@[simp] theorem Chip.start_rk : (c.start m).rk = c.rk := rfl
@[simp] theorem Chip.start_din : (c.start m).din = c.din := rfl
@[simp] theorem Chip.start_dout : (c.start m).dout = c.dout := rfl
@[simp] theorem Chip.start_st : (c.start m).st = c.st := rfl
@[simp] theorem Chip.start_mode : (c.start m).mode = m := rfl
@[simp] theorem Chip.start_rnd : (c.start m).rnd = 0 := rfl
@[simp] theorem Chip.start_busy : (c.start m).busy = true := rfl
@[simp] theorem Chip.start_ksv : (c.start m).ksv = c.ksv := rfl
@[simp] theorem Chip.start_err : (c.start m).err = c.err := rfl

@[simp] theorem Chip.complete_key : (c.complete).key = c.key := rfl
@[simp] theorem Chip.complete_rk : (c.complete).rk = c.rk := rfl
@[simp] theorem Chip.complete_din : (c.complete).din = c.din := rfl
@[simp] theorem Chip.complete_dout : (c.complete).dout = c.dout := rfl
@[simp] theorem Chip.complete_st : (c.complete).st = c.st := rfl
@[simp] theorem Chip.complete_mode : (c.complete).mode = .idle := rfl
@[simp] theorem Chip.complete_rnd : (c.complete).rnd = 0 := rfl
@[simp] theorem Chip.complete_busy : (c.complete).busy = false := rfl
@[simp] theorem Chip.complete_ksv : (c.complete).ksv = c.ksv := rfl
@[simp] theorem Chip.complete_err : (c.complete).err = c.err := rfl

@[simp] theorem Chip.clearErr_key : (c.clearErr).key = c.key := rfl
@[simp] theorem Chip.clearErr_rk : (c.clearErr).rk = c.rk := rfl
@[simp] theorem Chip.clearErr_din : (c.clearErr).din = c.din := rfl
@[simp] theorem Chip.clearErr_dout : (c.clearErr).dout = c.dout := rfl
@[simp] theorem Chip.clearErr_st : (c.clearErr).st = c.st := rfl
@[simp] theorem Chip.clearErr_mode : (c.clearErr).mode = c.mode := rfl
@[simp] theorem Chip.clearErr_rnd : (c.clearErr).rnd = c.rnd := rfl
@[simp] theorem Chip.clearErr_busy : (c.clearErr).busy = c.busy := rfl
@[simp] theorem Chip.clearErr_ksv : (c.clearErr).ksv = c.ksv := rfl
@[simp] theorem Chip.clearErr_err : (c.clearErr).err = 0 := rfl

@[simp] theorem Chip.setError_key : (c.setError code).key = c.key := by unfold Chip.setError; split <;> simp_all
@[simp] theorem Chip.setError_rk : (c.setError code).rk = c.rk := by unfold Chip.setError; split <;> simp_all
@[simp] theorem Chip.setError_din : (c.setError code).din = c.din := by unfold Chip.setError; split <;> simp_all
@[simp] theorem Chip.setError_dout : (c.setError code).dout = c.dout := by unfold Chip.setError; split <;> simp_all
@[simp] theorem Chip.setError_st : (c.setError code).st = c.st := by unfold Chip.setError; split <;> simp_all
@[simp] theorem Chip.setError_mode : (c.setError code).mode = c.mode := by unfold Chip.setError; split <;> simp_all
@[simp] theorem Chip.setError_rnd : (c.setError code).rnd = c.rnd := by unfold Chip.setError; split <;> simp_all
@[simp] theorem Chip.setError_busy : (c.setError code).busy = c.busy := by unfold Chip.setError; split <;> simp_all
@[simp] theorem Chip.setError_ksv : (c.setError code).ksv = c.ksv := by unfold Chip.setError; split <;> simp_all
@[simp] theorem Chip.setError_err : (c.setError code).err = if c.err = 0 then code else c.err := by unfold Chip.setError; split <;> simp_all

@[simp] theorem Chip.writeWord_dout : (c.writeWord x l).dout = c.dout := by cases l <;> rfl
@[simp] theorem Chip.writeWord_st : (c.writeWord x l).st = c.st := by cases l <;> rfl
@[simp] theorem Chip.writeWord_mode : (c.writeWord x l).mode = c.mode := by cases l <;> rfl
@[simp] theorem Chip.writeWord_rnd : (c.writeWord x l).rnd = c.rnd := by cases l <;> rfl
@[simp] theorem Chip.writeWord_busy : (c.writeWord x l).busy = c.busy := by cases l <;> rfl
@[simp] theorem Chip.writeWord_err : (c.writeWord x l).err = c.err := by cases l <;> rfl

end ChipUpdates

section HostUpdates
variable (h : HostAgent) (name : HostVar) (off : BitVec 8) (x : HostWord) (rest : List HostLine)

@[simp] theorem HostAgent.assign_script : (h.assign name x).script = h.script := rfl
@[simp] theorem HostAgent.assign_vars : (h.assign name x).vars = assignVar name x h.vars := rfl
@[simp] theorem HostAgent.assign_out : (h.assign name x).out = h.out := rfl
@[simp] theorem HostAgent.assign_results : (h.assign name x).results = h.results := rfl
@[simp] theorem HostAgent.assign_waiting : (h.assign name x).waiting = h.waiting := rfl
@[simp] theorem HostAgent.assign_halted : (h.assign name x).halted = h.halted := rfl

@[simp] theorem HostAgent.afterWrite_script : (h.afterWrite off x).script = h.script := rfl
@[simp] theorem HostAgent.afterWrite_vars : (h.afterWrite off x).vars = h.vars := rfl
@[simp] theorem HostAgent.afterWrite_out : (h.afterWrite off x).out = h.out := rfl
@[simp] theorem HostAgent.afterWrite_results : (h.afterWrite off x).results = h.results := rfl
@[simp] theorem HostAgent.afterWrite_halted : (h.afterWrite off x).halted = h.halted := rfl

@[simp] theorem HostAgent.afterRead_script : (h.afterRead off x).script = h.script := rfl
@[simp] theorem HostAgent.afterRead_vars : (h.afterRead off x).vars = h.vars := rfl
@[simp] theorem HostAgent.afterRead_out : (h.afterRead off x).out = h.out := rfl
@[simp] theorem HostAgent.afterRead_results : (h.afterRead off x).results = h.results := rfl
@[simp] theorem HostAgent.afterRead_halted : (h.afterRead off x).halted = h.halted := rfl

@[simp] theorem HostAgent.afterPoll_script : (h.afterPoll rest x).script = if x.getLsbD 0 then h.script else rest := rfl
@[simp] theorem HostAgent.afterPoll_vars : (h.afterPoll rest x).vars = assignVar .s x h.vars := rfl
@[simp] theorem HostAgent.afterPoll_out : (h.afterPoll rest x).out = h.out := rfl
@[simp] theorem HostAgent.afterPoll_results : (h.afterPoll rest x).results = h.results := rfl
@[simp] theorem HostAgent.afterPoll_waiting : (h.afterPoll rest x).waiting = h.waiting := rfl
@[simp] theorem HostAgent.afterPoll_halted : (h.afterPoll rest x).halted = h.halted := rfl

end HostUpdates

section Observed
variable (s : State)

@[simp] theorem State.observe_vars : s.observe.vars = s.host.vars := rfl
@[simp] theorem State.observe_results : s.observe.results = s.host.results := rfl
@[simp] theorem State.observe_status : s.observe.status = s.chip.statusWord := rfl
@[simp] theorem State.observe_registers : s.observe.registers = s.chip.visible? := rfl

end Observed

section StateUpdates
variable (s : State) (c : Chip) (f : Fault) (o : Option Response) (x : HostWord) (h : HostAgent)

@[simp] theorem State.withChip_chip : (s.withChip c).chip = c := rfl
@[simp] theorem State.withChip_faults : (s.withChip c).faults = s.faults := rfl
@[simp] theorem State.withChip_refused : (s.withChip c).refused = s.refused := rfl
@[simp] theorem State.withChip_rsp : (s.withChip c).rsp = s.rsp := rfl
@[simp] theorem State.withChip_params : (s.withChip c).params = s.params := rfl
@[simp] theorem State.withChip_host : (s.withChip c).host = s.host := rfl
@[simp] theorem State.withChip_agenda : (s.withChip c).agenda = s.agenda := rfl

@[simp] theorem State.raise_chip : (s.raise f).chip = s.chip := rfl
@[simp] theorem State.raise_faults : (s.raise f).faults = s.faults.insert f := rfl
@[simp] theorem State.raise_refused : (s.raise f).refused = s.refused := rfl
@[simp] theorem State.raise_rsp : (s.raise f).rsp = s.rsp := rfl
@[simp] theorem State.raise_params : (s.raise f).params = s.params := rfl
@[simp] theorem State.raise_host : (s.raise f).host = s.host := rfl
@[simp] theorem State.raise_agenda : (s.raise f).agenda = s.agenda := rfl

@[simp] theorem State.refuse_chip : (s.refuse).chip = s.chip := rfl
@[simp] theorem State.refuse_faults : (s.refuse).faults = s.faults := rfl
@[simp] theorem State.refuse_refused : (s.refuse).refused = true := rfl
@[simp] theorem State.refuse_rsp : (s.refuse).rsp = s.rsp := rfl
@[simp] theorem State.refuse_params : (s.refuse).params = s.params := rfl
@[simp] theorem State.refuse_host : (s.refuse).host = s.host := rfl
@[simp] theorem State.refuse_agenda : (s.refuse).agenda = s.agenda := rfl

@[simp] theorem State.respond_chip : (s.respond o).chip = s.chip := rfl
@[simp] theorem State.respond_faults : (s.respond o).faults = s.faults := rfl
@[simp] theorem State.respond_refused : (s.respond o).refused = s.refused := rfl
@[simp] theorem State.respond_rsp : (s.respond o).rsp = o := rfl
@[simp] theorem State.respond_params : (s.respond o).params = s.params := rfl
@[simp] theorem State.respond_host : (s.respond o).host = s.host := rfl
@[simp] theorem State.respond_agenda : (s.respond o).agenda = s.agenda := rfl

@[simp] theorem State.respondWritten_chip : (s.respondWritten).chip = s.chip := rfl
@[simp] theorem State.respondWritten_faults : (s.respondWritten).faults = s.faults := rfl
@[simp] theorem State.respondWritten_refused : (s.respondWritten).refused = s.refused := rfl
@[simp] theorem State.respondWritten_rsp : (s.respondWritten).rsp = some ⟨none, false⟩ := rfl
@[simp] theorem State.respondWritten_params : (s.respondWritten).params = s.params := rfl
@[simp] theorem State.respondWritten_host : (s.respondWritten).host = s.host := rfl
@[simp] theorem State.respondWritten_agenda : (s.respondWritten).agenda = s.agenda := rfl

@[simp] theorem State.respondRead_chip : (s.respondRead x).chip = s.chip := rfl
@[simp] theorem State.respondRead_faults : (s.respondRead x).faults = s.faults := rfl
@[simp] theorem State.respondRead_refused : (s.respondRead x).refused = s.refused := rfl
@[simp] theorem State.respondRead_rsp : (s.respondRead x).rsp = some ⟨some x, false⟩ := rfl
@[simp] theorem State.respondRead_params : (s.respondRead x).params = s.params := rfl
@[simp] theorem State.respondRead_host : (s.respondRead x).host = s.host := rfl
@[simp] theorem State.respondRead_agenda : (s.respondRead x).agenda = s.agenda := rfl

@[simp] theorem State.accessFault_chip : (s.accessFault).chip = s.chip := rfl
@[simp] theorem State.accessFault_faults : (s.accessFault).faults = s.faults.insert .access := rfl
@[simp] theorem State.accessFault_refused : (s.accessFault).refused = s.refused := rfl
@[simp] theorem State.accessFault_rsp : (s.accessFault).rsp = some ⟨none, true⟩ := rfl
@[simp] theorem State.accessFault_params : (s.accessFault).params = s.params := rfl
@[simp] theorem State.accessFault_host : (s.accessFault).host = s.host := rfl
@[simp] theorem State.accessFault_agenda : (s.accessFault).agenda = s.agenda := rfl

@[simp] theorem State.busyFault_chip : (s.busyFault).chip = s.chip := rfl
@[simp] theorem State.busyFault_faults : (s.busyFault).faults = s.faults.insert .busy := rfl
@[simp] theorem State.busyFault_refused : (s.busyFault).refused = s.refused := rfl
@[simp] theorem State.busyFault_rsp : (s.busyFault).rsp = none := rfl
@[simp] theorem State.busyFault_params : (s.busyFault).params = s.params := rfl
@[simp] theorem State.busyFault_host : (s.busyFault).host = s.host := rfl
@[simp] theorem State.busyFault_agenda : (s.busyFault).agenda = s.agenda := rfl

@[simp] theorem State.unwrittenFault_chip : (s.unwrittenFault).chip = s.chip := rfl
@[simp] theorem State.unwrittenFault_faults : (s.unwrittenFault).faults = s.faults.insert .unwritten := rfl
@[simp] theorem State.unwrittenFault_refused : (s.unwrittenFault).refused = s.refused := rfl
@[simp] theorem State.unwrittenFault_rsp : (s.unwrittenFault).rsp = none := rfl
@[simp] theorem State.unwrittenFault_params : (s.unwrittenFault).params = s.params := rfl
@[simp] theorem State.unwrittenFault_host : (s.unwrittenFault).host = s.host := rfl
@[simp] theorem State.unwrittenFault_agenda : (s.unwrittenFault).agenda = s.agenda := rfl

@[simp] theorem State.resetEvent_chip : (s.resetEvent).chip = .reset := rfl
@[simp] theorem State.resetEvent_faults : (s.resetEvent).faults = s.faults := rfl
@[simp] theorem State.resetEvent_refused : (s.resetEvent).refused = s.refused := rfl
@[simp] theorem State.resetEvent_rsp : (s.resetEvent).rsp = s.rsp := rfl
@[simp] theorem State.resetEvent_params : (s.resetEvent).params = s.params := rfl
@[simp] theorem State.resetEvent_host : (s.resetEvent).host = s.host := rfl
@[simp] theorem State.resetEvent_agenda : (s.resetEvent).agenda = s.agenda := rfl

@[simp] theorem State.popEvent_chip : (s.popEvent).chip = s.chip := rfl
@[simp] theorem State.popEvent_faults : (s.popEvent).faults = s.faults := rfl
@[simp] theorem State.popEvent_refused : (s.popEvent).refused = s.refused := rfl
@[simp] theorem State.popEvent_rsp : (s.popEvent).rsp = s.rsp := rfl
@[simp] theorem State.popEvent_params : (s.popEvent).params = s.params := rfl
@[simp] theorem State.popEvent_host : (s.popEvent).host = s.host := rfl
@[simp] theorem State.popEvent_agenda : (s.popEvent).agenda = s.agenda.tail := rfl

@[simp] theorem State.withHost_chip : (s.withHost h).chip = s.chip := rfl
@[simp] theorem State.withHost_faults : (s.withHost h).faults = s.faults := rfl
@[simp] theorem State.withHost_refused : (s.withHost h).refused = s.refused := rfl
@[simp] theorem State.withHost_rsp : (s.withHost h).rsp = s.rsp := rfl
@[simp] theorem State.withHost_params : (s.withHost h).params = s.params := rfl
@[simp] theorem State.withHost_host : (s.withHost h).host = h := rfl
@[simp] theorem State.withHost_agenda : (s.withHost h).agenda = s.agenda := rfl

@[simp] theorem State.haltHost_chip : (s.haltHost).chip = s.chip := rfl
@[simp] theorem State.haltHost_faults : (s.haltHost).faults = s.faults := rfl
@[simp] theorem State.haltHost_refused : (s.haltHost).refused = s.refused := rfl
@[simp] theorem State.haltHost_rsp : (s.haltHost).rsp = s.rsp := rfl
@[simp] theorem State.haltHost_params : (s.haltHost).params = s.params := rfl
@[simp] theorem State.haltHost_host : (s.haltHost).host = { s.host with halted := true } := rfl
@[simp] theorem State.haltHost_agenda : (s.haltHost).agenda = s.agenda := rfl

end StateUpdates

/-- A name just inserted is in the set, and a name that was in it stays. -/
@[simp] theorem FaultSet.has_insert (fs : FaultSet) (f g : Fault) :
    (fs.insert f).has g = (decide (f = g) || fs.has g) := by
  cases f <;> cases g <;> simp [FaultSet.insert, FaultSet.has]

/-- Two sets with the same names are equal. -/
theorem FaultSet.ext_has (a b : FaultSet) (h : ∀ f, a.has f = b.has f) : a = b := by
  cases a; cases b
  have h1 := h .access
  have h2 := h .busy
  have h3 := h .unwritten
  simp_all [FaultSet.has]

end Sys2Proof.Machine
end

