-- ==== Sys2Proof/Laws/Operands.lean ====
section
/-! SUPPORT. Packing and register values: what a register holds after it is written whole, and one word at a time (20_memory R46). -/

namespace Sys2Proof.Machine

/-- Unpacking undoes packing. -/
@[simp] theorem unpackWord_packWord (w : ByteWord) : unpackWord (packWord w) = w := by
  obtain ⟨a0, a1, a2, a3⟩ := w
  simp only [unpackWord, packWord, ByteWord.mk.injEq]
  refine ⟨?_, ?_, ?_, ?_⟩ <;>
    (apply BitVec.eq_of_getLsbD_eq
     intro i hi
     rw [BitVec.getLsbD_extractLsb']
     simp only [BitVec.getLsbD_append, hi, decide_true, Bool.true_and]
     repeat rw [if_neg (by omega)]
     try rw [if_pos (by omega)]
     congr 1
     omega)

/-- Packing undoes unpacking. -/
@[simp] theorem packWord_unpackWord (x : HostWord) : packWord (unpackWord x) = x := by
  apply BitVec.eq_of_getLsbD_eq
  intro i hi
  unfold packWord unpackWord
  simp only [BitVec.getLsbD_append, BitVec.getLsbD_extractLsb']
  split_ifs
  · simp [*]
  all_goals
    rw [decide_eq_true (by omega), Bool.true_and]
    congr 1
    omega

/-- A register written whole holds its value. -/
@[simp] theorem Reg.block?_ofBlock (v : Block) : (Reg.ofBlock v).block? = some v := by
  cases v
  simp [Reg.block?, Reg.ofBlock, blockOfWords]

/-- A register written whole is written. -/
@[simp] theorem Reg.isWritten_ofBlock (v : Block) : (Reg.ofBlock v).isWritten = true := by
  simp [Reg.isWritten]

/-- A register holds a 16-byte value exactly when each of its words is written. -/
theorem Reg.isWritten_iff (r : Reg) : r.isWritten = true ↔ ∀ k : Fin 4, (r[k.val]'k.isLt).isSome = true := by
  unfold Reg.isWritten Reg.block?
  constructor
  · intro h k
    split at h
    · rename_i h0 h1 h2 h3
      match k with
      | 0 => simp [h0]
      | 1 => simp [h1]
      | 2 => simp [h2]
      | 3 => simp [h3]
    · simp at h
  · intro h
    have h0 := h 0
    have h1 := h 1
    have h2 := h 2
    have h3 := h 3
    simp only [Option.isSome_iff_exists] at h0 h1 h2 h3
    obtain ⟨x0, h0⟩ := h0
    obtain ⟨x1, h1⟩ := h1
    obtain ⟨x2, h2⟩ := h2
    obtain ⟨x3, h3⟩ := h3
    simp_all

/-- The schedule is written exactly when every round key has a value. -/
theorem Chip.scheduleWritten_iff (c : Chip) :
    c.scheduleWritten = true ↔ ∀ j : Fin 10, (c.roundKey? j).isSome = true := by
  unfold Chip.scheduleWritten
  rw [List.all_eq_true]
  constructor
  · intro h j
    exact h _ (by simp)
  · intro h r hr
    obtain ⟨i, hi, rfl⟩ := List.getElem_of_mem hr
    have hi' : i < 10 := by simpa using hi
    simpa [Chip.roundKey?, Reg.isWritten] using h ⟨i, hi'⟩

/-- RK[i] after RK[j] is stored. -/
theorem Chip.roundKey?_storeRoundKey (c : Chip) (i j : Fin 10) (v : Block) :
    (c.storeRoundKey j v).roundKey? i = if i = j then some v else c.roundKey? i := by
  simp only [Chip.roundKey?, Chip.storeRoundKey_rk, Vector.getElem_set]
  by_cases h : i = j
  · simp [h]
  · have : ¬ j.val = i.val := fun e => h (Fin.ext e.symm)
    simp [h, this]

end Sys2Proof.Machine
end

