-- ==== Sys2Proof/Laws/Ops.lean ====
section
/-! SUPPORT. What each shared operation can do, said once: the commands, the host's reads and writes, an iteration, a core step, and a step as an event. -/

namespace Sys2Proof.Machine

/-- A command word at a busy block is F_BUSY. -/
@[simp] theorem State.commandWhenIdle_busy (s : State) (effect : State → State) (h : s.chip.busy = true) :
    s.commandWhenIdle effect = s.busyFault := by
  simp [State.commandWhenIdle, h]

/-- A command word at an idle block has its effect. -/
@[simp] theorem State.commandWhenIdle_idle (s : State) (effect : State → State) (h : s.chip.busy = false) :
    s.commandWhenIdle effect = effect s := by
  simp [State.commandWhenIdle, h]

/-- EXPAND is accepted, or it is F_UNWRITTEN. -/
theorem State.expandCommand_cases (s : State) :
    (s.chip.key.isWritten = true ∧ s.expandCommand = (s.withChip (s.chip.start .expand)).respondWritten) ∨
      (s.chip.key.isWritten = false ∧ s.expandCommand = s.unwrittenFault) := by
  unfold State.expandCommand Chip.expandReady
  cases s.chip.key.isWritten <;> simp

/-- ENCRYPT or DECRYPT is accepted, DIN's value copied into ST, or it is F_UNWRITTEN. -/
theorem State.cipherCommand_cases (s : State) (m : Mode) :
    (∃ v, s.chip.din.block? = some v ∧ s.chip.key.isWritten = true ∧ s.chip.scheduleWritten = true ∧
        s.cipherCommand m = (s.withChip ((s.chip.storeSt v).start m)).respondWritten) ∨
      (s.chip.cipherReady = false ∧ s.cipherCommand m = s.unwrittenFault) := by
  unfold State.cipherCommand
  cases hr : s.chip.cipherReady
  · exact .inr ⟨rfl, by simp⟩
  · left
    simp only [Chip.cipherReady, Reg.isWritten, Bool.and_eq_true] at hr
    obtain ⟨⟨hd, hk⟩, hs⟩ := hr
    obtain ⟨v, hv⟩ := Option.isSome_iff_exists.mp hd
    exact ⟨v, hv, hk, hs, by simp [hv, Chip.storeSt]⟩

/-- A host read answers with a value, or with one of the three faults. -/
theorem State.hostRead_cases (s : State) (off : BitVec 8) (size : Nat) :
    (∃ x, s.hostRead off size = s.respondRead x) ∨ s.hostRead off size = s.accessFault ∨
      s.hostRead off size = s.busyFault ∨ s.hostRead off size = s.unwrittenFault := by
  have word (o : Option HostWord) : (∃ x, s.readWord o = s.respondRead x) ∨ s.readWord o = s.unwrittenFault := by
    cases o
    · exact .inr rfl
    · exact .inl ⟨_, rfl⟩
  unfold State.hostRead
  split
  · exact .inr (.inl rfl)
  split
  · exact .inr (.inr (.inl rfl))
  split
  · exact .inl ⟨_, rfl⟩
  · exact .inl ⟨_, rfl⟩
  · exact .inr (.inl rfl)
  all_goals exact (word _).imp_right fun h => .inr (.inr h)

/-- A read has no effect on the block (20_memory R54). -/
@[simp] theorem State.hostRead_chip (s : State) (off : BitVec 8) (size : Nat) :
    (s.hostRead off size).chip = s.chip := by
  obtain ⟨x, h⟩ | h | h | h := s.hostRead_cases off size <;> simp [h]

/-- A host write stores one word of an idle block, or is a command, or is F_ACCESS or F_BUSY. -/
theorem State.hostWrite_cases (s : State) (off : BitVec 8) (size : Nat) (x : HostWord) :
    (s.chip.busy = false ∧ (locate off).isWritable = true ∧
        s.hostWrite off size x = (s.withChip (s.chip.writeWord x (locate off))).respondWritten) ∨
      (s.chip.busy = false ∧ locate off = .ctrl ∧ s.hostWrite off size x = s.ctrlWrite x) ∨
      s.hostWrite off size x = s.accessFault ∨ (s.chip.busy = true ∧ s.hostWrite off size x = s.busyFault) := by
  unfold State.hostWrite
  by_cases hb : badAccess off size = true
  · simp [hb]
  cases hy : s.chip.busy
  · by_cases hc : locate off = .ctrl
    · simp [hb, hc]
    · cases hw : (locate off).isWritable <;> simp [hb, hc]
  · simp [hb]

/-- A command word is rejected, or has the effect of one of the four commands, or is F_BUSY. -/
theorem State.ctrlWrite_cases (s : State) (v : HostWord) :
    s.ctrlWrite v = s.busyFault ∨ s.ctrlWrite v = s.reject errRsvdBits ∨ s.ctrlWrite v = s.reject errIllegalCmd ∨
      s.ctrlWrite v = s.clearCommand ∨ s.ctrlWrite v = s.expandCommand ∨ s.ctrlWrite v = s.cipherCommand .encrypt ∨
      s.ctrlWrite v = s.cipherCommand .decrypt := by
  unfold State.ctrlWrite
  cases hy : s.chip.busy
  · rw [State.commandWhenIdle_idle _ _ hy]
    split_ifs <;> simp
  · exact .inl (State.commandWhenIdle_busy _ _ hy)

/-- An iteration whose operands have values changes the block alone. -/
@[simp] theorem State.iterate_some (s : State) (c : Chip) : s.iterate (some c) = s.withChip c := rfl

/-- An iteration with an unwritten operand is F_UNWRITTEN. -/
@[simp] theorem State.iterate_none (s : State) : s.iterate none = s.raise .unwritten := rfl

/-- No iteration left: nothing changes. -/
@[simp] theorem coreIterations_zero (s : State) : coreIterations 0 s = .next s := rfl

/-- One more iteration: the operation UOP selects, and then the rest. -/
theorem coreIterations_succ (n : Nat) (s s' : State) (h : exec (decodeMicroOp s.chip.uop) s = .next s') :
    coreIterations (n + 1) s = coreIterations n s' := by
  simp [coreIterations, h]

/-- A property that every operation keeps is kept by any number of iterations. -/
theorem coreIterations_keeps (P : State → Prop)
    (keep : ∀ s s', P s → exec (decodeMicroOp s.chip.uop) s = .next s' → P s') :
    ∀ n s s', P s → coreIterations n s = .next s' → P s' := by
  intro n
  induction n with
  | zero =>
    intro s s' hp h
    rw [coreIterations_zero] at h
    cases h
    exact hp
  | succ n ih =>
    intro s s' hp h
    unfold coreIterations at h
    split at h
    · next s1 h1 => exact ih s1 s' (keep s s1 hp h1) h
    · cases h
    · cases h

/-- A command word of the core's leaves the host waiting, whatever it did before. -/
theorem HostAgent.afterWrite_waiting (h : HostAgent) (x : HostWord) (h1 : 1 ≤ x.toNat) (h3 : x.toNat ≤ 3) :
    (h.afterWrite 0 x).waiting = true := by
  simp [HostAgent.afterWrite, h1, h3]

/-- A write anywhere else leaves the host's waiting as it is. -/
theorem HostAgent.afterWrite_of_ne (h : HostAgent) (off : BitVec 8) (x : HostWord) (ho : off ≠ 0) : h.afterWrite off x = h := by
  unfold HostAgent.afterWrite
  rw [decide_eq_false ho, Bool.false_and, Bool.or_false]

/-- A read of BUSY = 0 in STATUS ends the host's waiting. -/
theorem HostAgent.afterRead_status_idle (h : HostAgent) (x : HostWord) (hx : x.getLsbD 0 = false) :
    (h.afterRead 0x04 x).waiting = false := by
  unfold HostAgent.afterRead
  rw [hx]
  exact Bool.and_false _

/-- A read of BUSY = 1 in STATUS does not end it. -/
theorem HostAgent.afterRead_busy (h : HostAgent) (off : BitVec 8) (x : HostWord) (hx : x.getLsbD 0 = true) : h.afterRead off x = h := by
  unfold HostAgent.afterRead
  rw [hx, Bool.not_true, Bool.and_false, Bool.not_false, Bool.and_true]

/-- Nor does a read at any other offset. -/
theorem HostAgent.afterRead_of_ne (h : HostAgent) (off : BitVec 8) (x : HostWord) (ho : off ≠ 0x04) : h.afterRead off x = h := by
  unfold HostAgent.afterRead
  rw [decide_eq_false ho, Bool.false_and, Bool.not_false, Bool.and_true]

/-- A host access that ends in a next state leaves the host's stopping or going on as the only further change. -/
theorem hostContinue_cases (next : Option HostWord → HostAgent) (o : Host.Outcome State Fault Refusal) (t : State)
    (h : hostContinue next o = .next t) : ∃ s h', o = .next s ∧ t = s.withHost h' := by
  unfold hostContinue at h
  split at h
  · split at h <;> cases h <;> exact ⟨_, _, rfl, rfl⟩
  · cases h
  · cases h

/-- A line of the script makes one access of the port, or changes the host alone, or refuses. -/
theorem issueLine_cases (line : HostLine) (rest : List HostLine) (s t : State) (h : issueLine line rest s = .next t) :
    (∃ tr s' h', portAccess tr s = .next s' ∧ t = s'.withHost h') ∨ (∃ h', t = s.withHost h') ∨ t = s.refuse := by
  unfold issueLine hostReadLine at h
  split at h
  · split at h
    · obtain ⟨s', h', hs, rfl⟩ := hostContinue_cases _ _ _ h
      exact .inl ⟨_, s', h', hs, rfl⟩
    · cases h
      exact .inr (.inl ⟨_, rfl⟩)
  · obtain ⟨s', h', hs, rfl⟩ := hostContinue_cases _ _ _ h
    exact .inl ⟨_, s', h', hs, rfl⟩
  · obtain ⟨s', h', hs, rfl⟩ := hostContinue_cases _ _ _ h
    exact .inl ⟨_, s', h', hs, rfl⟩
  · obtain ⟨s', h', hs, rfl⟩ := hostContinue_cases _ _ _ h
    exact .inl ⟨_, s', h', hs, rfl⟩
  · split at h
    · cases h
      exact .inr (.inr rfl)
    · cases h
      exact .inr (.inl ⟨_, rfl⟩)
    · cases h
      exact .inr (.inl ⟨_, rfl⟩)
  · cases h
    exact .inr (.inl ⟨_, rfl⟩)
  · cases h
    exact .inr (.inl ⟨_, rfl⟩)

/-- Everything a step can do: an access at the port (with what the host makes of it), a core step, a reset, a change of the host alone, a refused driver call, or nothing. -/
theorem step_cases (s t : State) (h : step s = .next t) :
    (∃ tr, portAccess tr s.popEvent = .next t) ∨
      (∃ tr s' h', portAccess tr s.popEvent = .next s' ∧ t = s'.withHost h') ∨
      (s.nextEvent = .core ∧ coreStep s.popEvent = .next t) ∨
      (s.nextEvent = .reset ∧ t = s.popEvent.resetEvent) ∨
      (∃ h', t = s.popEvent.withHost h') ∨ t = s.popEvent.refuse ∨ t = s.popEvent := by
  unfold step runEvent at h
  split at h
  · unfold hostTurn at h
    split at h
    · obtain h | h | h := issueLine_cases _ _ _ _ h
      · exact .inr (.inl h)
      · exact .inr (.inr (.inr (.inr (.inl h))))
      · exact .inr (.inr (.inr (.inr (.inr (.inl h)))))
    · cases h
      exact .inr (.inr (.inr (.inr (.inr (.inr rfl)))))
    · cases h
      exact .inr (.inr (.inr (.inr (.inr (.inr rfl)))))
  · unfold busAccess at h
    split at h
    · exact .inl ⟨_, h⟩
    · cases h
      exact .inr (.inr (.inr (.inr (.inr (.inr rfl)))))
  · next he => exact .inr (.inr (.inl ⟨he, h⟩))
  · next he =>
    cases h
    exact .inr (.inr (.inr (.inl ⟨he, rfl⟩)))

/-- While BUSY = 1 no register is seen. -/
@[simp] theorem Chip.visible?_busy (c : Chip) (h : c.busy = true) : c.visible? = none := by
  simp [Chip.visible?, h]

/-- At an idle block the registers the host may read are seen. -/
@[simp] theorem Chip.visible?_idle (c : Chip) (h : c.busy = false) : c.visible? = some ⟨c.key, c.rk, c.din, c.dout⟩ := by
  simp [Chip.visible?, h]

/-- ST is not seen (10_state R40, 60_exceptions R175). -/
@[simp] theorem Chip.visible?_storeSt (c : Chip) (v : Block) : (c.storeSt v).visible? = c.visible? := rfl

/-- The STATUS observed is the one a host reads (10_state R34). -/
theorem State.hostRead_status (s : State) : s.hostRead 0x04 4 = s.respondRead s.observe.status := by
  have hl : locate 0x04 = .status := by decide
  have hb : badAccess 0x04 4 = false := by decide
  unfold State.hostRead
  rw [hb, hl]
  simp

/-- A run has at most one end. -/
theorem State.EndsAt_unique (s t u : State) (ht : s.EndsAt t) (hu : s.EndsAt u) : t = u := by
  obtain ⟨n, hn, en, first⟩ := ht
  obtain ⟨m, hm, em, first'⟩ := hu
  obtain h | rfl | h := Nat.lt_trichotomy n m
  · exact absurd en (first' n t h hn)
  · rw [hn] at hm
    exact Host.Outcome.next.inj hm
  · exact absurd em (first m u h hm)

/-- A run has at most one observation (44_host_access R150, log 24). -/
theorem State.EndsGoodWith_unique (s : State) (o o' : Observation) (h : s.EndsGoodWith o) (h' : s.EndsGoodWith o') : o = o' := by
  obtain ⟨t, ht, -, rfl⟩ := h
  obtain ⟨u, hu, -, rfl⟩ := h'
  rw [State.EndsAt_unique s t u ht hu]

/-- A run that has ended already is at its end. -/
theorem State.EndsAt_self (s : State) (h : s.ended) : s.EndsAt s :=
  ⟨0, rfl, h, fun _ _ hm => absurd hm (Nat.not_lt_zero _)⟩

/-- A run that has not ended ends where the run from its next state does. -/
theorem State.EndsAt_step (s s' t : State) (hs : ¬s.ended) (h : step s = .next s') (ht : s'.EndsAt t) : s.EndsAt t := by
  obtain ⟨n, hn, en, first⟩ := ht
  have next (m : Nat) : Sys2Proof.core.run (m + 1) s = Sys2Proof.core.run m s' := by
    simp only [Host.Core.run, show Sys2Proof.core.step s = .next s' from h]
  refine ⟨n + 1, (next n).trans hn, en, fun m u hm hu => ?_⟩
  cases m with
  | zero =>
    cases hu
    exact hs
  | succ m => exact first m u (Nat.lt_of_succ_lt_succ hm) ((next m).symm.trans hu)

end Sys2Proof.Machine
end

