-- ==== Sys2Proof/Laws/PerInstr.lean ====
section
/-! SUPPORT. The family of statements made for each operation as syntax: its encoded word has the kind and length that the opcode table's format gives its mnemonic (30_encoding R67). -/

namespace Sys2Proof.Laws.Format

/-- The word of `i` is as long as the table's format of `i` says. -/
def Statement (i : Instr) : Prop := (encode i).bitLength = i.bitLength

theorem clear : Statement (.clear) := rfl
theorem expand : Statement (.expand) := rfl
theorem encrypt : Statement (.encrypt) := rfl
theorem decrypt : Statement (.decrypt) := rfl
theorem illegalCmd (cmd : BitVec 4) : Statement (.illegalCmd cmd) := rfl
theorem rsvdBits (rsvd : BitVec 28) (cmd : BitVec 4) : Statement (.rsvdBits rsvd cmd) := rfl
theorem expFirst : Statement (.expFirst) := rfl
theorem expNext (r : BitVec 4) : Statement (.expNext r) := rfl
theorem expLast : Statement (.expLast) := rfl
theorem encFirst : Statement (.encFirst) := rfl
theorem encMid (r : BitVec 4) : Statement (.encMid r) := rfl
theorem encLast : Statement (.encLast) := rfl
theorem decFirst : Statement (.decFirst) := rfl
theorem decMid (r : BitVec 4) : Statement (.decMid r) := rfl
theorem decLast : Statement (.decLast) := rfl
theorem unreachable (mode : BitVec 2) (rnd : BitVec 4) : Statement (.unreachable mode rnd) := rfl
theorem noStep (rnd : BitVec 4) : Statement (.noStep rnd) := rfl
theorem rd32 (off : BitVec 8) (size : Nat) : Statement (.rd32 off size) := rfl
theorem wr32 (off : BitVec 8) (size : Nat) (wdata : HostWord) : Statement (.wr32 off size wdata) := rfl

end Sys2Proof.Laws.Format
end

