-- ==== Sys2Proof/Tests/Slice0.lean ====
section
/-! SUPPORT. Tests of single operations against words and values written out from spec/ (30_encoding, 95_test_vectors), the refusals of ill-formed terms, and for each statement with hypotheses a state that meets them. -/

namespace Sys2Proof.Tests

set_option Elab.async false

open Sys2Proof.Machine

/-! ## Values of 95_test_vectors -/

/-- K8, the known-answer key. -/
def k8 : Block := blockOfBits 0x2b7e151628aed2a6abf7158809cf4f3c

/-- P8, the known-answer plaintext. -/
def p8 : Block := blockOfBits 0x3243f6a8885a308d313198a2e0370734

/-- C8, the known-answer ciphertext. -/
def c8 : Block := blockOfBits 0x3925841d02dc09fbdc118597196a0b32

/-- TV-EXP-1: the schedule of K8. -/
def schedule8 : Vector Block 10 :=
  #v[blockOfBits 0xa0fafe1788542cb123a339392a6c7605, blockOfBits 0xf2c295f27a96b9435935807a7359f67f,
     blockOfBits 0x3d80477d4716fe3e1e237e446d7a883b, blockOfBits 0xef44a541a8525b7fb671253bdb0bad00,
     blockOfBits 0xd4d1c6f87c839d87caf2b8bc11f915bc, blockOfBits 0x6d88a37a110b3efddbf98641ca0093fd,
     blockOfBits 0x4e54f70e5f5fc9f384a64fb24ea6dc4f, blockOfBits 0xead27321b58dbad2312bf5607f8d292f,
     blockOfBits 0xac7766f319fadc2128d12941575c006e, blockOfBits 0xd014f9a8c9ee2589e13f0cc8b6630ca6]

/-- An idle block with K8 expanded and P8 in DIN. -/
def idleChip : Chip :=
  { Chip.reset with key := .ofBlock k8, rk := schedule8.map Reg.ofBlock, din := .ofBlock p8, ksv := true }

/-- The machine of `idleChip`. -/
def idle : State := State.reset.withChip idleChip

/-- The same block in iteration `r` of mode `m`, with `v` in ST. -/
def running (m : Mode) (r : BitVec 4) (v : Block) : State :=
  State.reset.withChip { idleChip with mode := m, rnd := r, busy := true, st := some v }

/-- The same block in iteration `r` of an EXPAND that has written the round keys before it. -/
def expanding (r : BitVec 4) : State :=
  State.reset.withChip { Chip.reset with
    key := .ofBlock k8, rk := (Vector.range 10).map fun j => if j < r.toNat then .ofBlock (schedule8[j]?.getD k8) else .unwritten,
    mode := .expand, rnd := r, busy := true }

/-- An idle machine whose host has the given script. -/
def scripted (script : List HostLine) : State := idle.withHost { HostAgent.idle with script := script }

/-- The sixteen bytes of K8, as a driver's caller passes them. -/
def keyBytes : List Byte := bytesOfBlock k8

/-- The schedule of K8 as the driver's caller passes it. -/
def schedBytes : List (List Byte) := bytesOfSchedule schedule8

/-- A property of the next state, false where there is none. -/
def nextHas (o : Host.Outcome State Fault Refusal) (p : State → Bool) : Bool :=
  match o with
  | .next s => p s
  | .fault _ => false
  | .refused _ => false

/-- A next state with a checked property exists. -/
theorem next_of_check (o : Host.Outcome State Fault Refusal) (P : State → Prop) [DecidablePred P]
    (h : nextHas o (fun t => decide (P t)) = true) : ∃ t, o = .next t ∧ P t := by
  unfold nextHas at h
  split at h
  · next s => exact ⟨s, rfl, of_decide_eq_true h⟩
  · cases h
  · cases h

/-- The outcome is a next state. -/
theorem next_of_some (o : Host.Outcome State Fault Refusal) (h : nextHas o (fun _ => true) = true) : ∃ t, o = .next t := by
  unfold nextHas at h
  split at h
  · next s => exact ⟨s, rfl⟩
  · cases h
  · cases h

/-- The value a read returned. -/
def readValue (s : State) : Option HostWord := s.rsp.bind Response.rdata


/-! ## Decoding of words written out from the encodings (30_encoding R69, R75, R79, R84) -/

theorem test_decode_clear : decodeTableWord 32 0x00000000 = some .clear := by decide +kernel

theorem test_decode_expand : decodeTableWord 32 0x00000001 = some .expand := by decide +kernel

theorem test_decode_encrypt : decodeTableWord 32 0x00000002 = some .encrypt := by decide +kernel

theorem test_decode_decrypt : decodeTableWord 32 0x00000003 = some .decrypt := by decide +kernel

theorem test_decode_illegal_cmd : decodeTableWord 32 0x0000000F = some (.illegalCmd 0xF) := by decide +kernel

theorem test_decode_rsvd_bits : decodeTableWord 32 0x80000001 = some (.rsvdBits 0x8000000 1) := by decide +kernel

theorem test_decode_exp_first : decodeTableWord 8 0b010000 = some .expFirst := by decide +kernel

theorem test_decode_exp_next : decodeTableWord 8 0b011000 = some (.expNext 8) := by decide +kernel

theorem test_decode_exp_last : decodeTableWord 8 0b011001 = some .expLast := by decide +kernel

theorem test_decode_enc_first : decodeTableWord 8 0b100000 = some .encFirst := by decide +kernel

theorem test_decode_enc_mid : decodeTableWord 8 0b100001 = some (.encMid 1) := by decide +kernel

theorem test_decode_enc_last : decodeTableWord 8 0b101001 = some .encLast := by decide +kernel

theorem test_decode_dec_first : decodeTableWord 8 0b110000 = some .decFirst := by decide +kernel

theorem test_decode_dec_mid : decodeTableWord 8 0b110111 = some (.decMid 7) := by decide +kernel

theorem test_decode_dec_last : decodeTableWord 8 0b111001 = some .decLast := by decide +kernel

theorem test_decode_unreachable : decodeTableWord 8 0b101111 = some (.unreachable 0b10 15) := by decide +kernel

theorem test_decode_no_step : decodeTableWord 8 0b000101 = some (.noStep 5) := by decide +kernel

theorem test_decode_rd32 : decodeTableWord 48 0x808 = some (.rd32 0x04 4) := by decide +kernel

theorem test_decode_wr32 : decodeTableWord 48 0x2b7e1516821 = some (.wr32 0x10 4 0x2b7e1516) := by decide +kernel

/-- A transaction that writes 0x00000012 at offset 0 is the command of that word (30_encoding R84). -/
theorem test_decode_ctrl_write : decodeTableWord 48 0x12801 = some (.rsvdBits 1 2) := by decide +kernel

theorem test_decode_refuses_padding : decodeBits 8 0x40 = .error .microOpPadding := by decide +kernel

theorem test_decode_refuses_length : decodeBytes [0, 0] = .error .badLength := by decide +kernel

theorem test_decode_refuses_wide : decodeBits 32 0x100000000 = .error .tooWide := by decide +kernel

theorem test_decode_refuses_transaction_padding : decodeBits 48 0x100000000000 = .error .transactionPadding := by decide +kernel

/-! ## Ill-formed terms, one for each check of WellFormed -/

theorem test_illformed_illegal_cmd : ¬WellFormed (.illegalCmd 3) := by decide +kernel

theorem test_illformed_rsvd_bits : ¬WellFormed (.rsvdBits 0 5) := by decide +kernel

theorem test_illformed_exp_next : ¬WellFormed (.expNext 0) := by decide +kernel

theorem test_illformed_enc_mid : ¬WellFormed (.encMid 9) := by decide +kernel

theorem test_illformed_dec_mid : ¬WellFormed (.decMid 12) := by decide +kernel

theorem test_illformed_unreachable_mode : ¬WellFormed (.unreachable 0 12) := by decide +kernel

theorem test_illformed_unreachable_rnd : ¬WellFormed (.unreachable 1 9) := by decide +kernel

theorem test_illformed_rd32_align : ¬WellFormed (.rd32 0x02 4) := by decide +kernel

theorem test_illformed_rd32_size : ¬WellFormed (.rd32 0x04 1) := by decide +kernel

theorem test_illformed_wr32_size : ¬WellFormed (.wr32 0x10 2 0) := by decide +kernel

theorem test_illformed_wr32_ctrl : ¬WellFormed (.wr32 0 4 1) := by decide +kernel

theorem test_wellformed_enc_mid : WellFormed (.encMid 8) := by decide +kernel

/-! ## Tables and functions (95_test_vectors 2.1 to 2.4) -/

theorem test_xtime : xtime 0x57 = 0xae ∧ xtime 0xff = 0xe5 := by decide +kernel

theorem test_gmul : gmul 0x57 0x13 = 0xfe ∧ gmul 0xff 0xff = 0x13 := by decide +kernel

theorem test_ginv : ginv 0x53 = 0xca ∧ ginv 0xff = 0x1c := by decide +kernel

theorem test_sbox : sbox 0x9a = 0xb8 ∧ invSbox 0xc9 = 0x12 := by decide +kernel

theorem test_sub_word : subWord (unpackWord 0xcf4f3c09) = unpackWord 0x8a84eb01 ∧ rotWord (unpackWord 0x09cf4f3c) = unpackWord 0xcf4f3c09 := by decide +kernel

theorem test_shift_rows : shiftRows (blockOfBits 0x000102030405060708090a0b0c0d0e0f) = blockOfBits 0x00050a0f04090e03080d02070c01060b ∧
    invShiftRows (blockOfBits 0x000102030405060708090a0b0c0d0e0f) = blockOfBits 0x000d0a0704010e0b0805020f0c090603 := by decide +kernel

theorem test_mix_columns : mixColumns (blockOfBits 0x000102030405060708090a0b0c0d0e0f) = blockOfBits 0x02070005060304010a0f080d0e0b0c09 ∧
    invMixColumns (blockOfBits 0x000102030405060708090a0b0c0d0e0f) = blockOfBits 0x0a0f080d0e0b0c090207000506030401 := by decide +kernel

theorem test_aese : aese p8 k8 = blockOfBits 0xd4bf5d30e0b452aeb84111f11e2798e5 := by decide +kernel

/-- TV-EXP-1. -/
theorem test_expand_key : expandKey128 k8 = schedule8 := by decide +kernel

theorem test_expand_key_words : (expandedWords k8 40).getLast? = some (unpackWord 0xb6630ca6) := by decide +kernel

/-- SV1, the known-answer vector. -/
theorem test_encrypt128 : encrypt128 k8 schedule8 p8 = c8 := by decide +kernel

/-- TV-ENC-4. -/
theorem test_encrypt128_stale : encrypt128 (blockOfBits 0) schedule8 p8 = blockOfBits 0x3e9d99d7d65c0ba63285b6886a004eb5 := by decide +kernel

/-- TV-DEC-1. -/
theorem test_decrypt128 : decrypt128 k8 schedule8 c8 = p8 := by decide +kernel

theorem test_block_bits : blockToBits k8 = 0x2b7e151628aed2a6abf7158809cf4f3c ∧ k8.byte 15 = 0x3c := by decide +kernel

/-! ## One step of each operation (95_test_vectors 2.4 to 2.8) -/

/-- 44_host_access R142. -/
theorem test_exec_clear : nextHas (exec .clear (idle.withChip { idleChip with err := 2 })) (·.chip.statusWord == 0x00000002) := by decide +kernel

/-- TV-HA-21. -/
theorem test_exec_clear_busy : nextHas (exec .clear (running .expand 3 p8)) fun s => s.faults.busy && s.chip.busy := by decide +kernel

/-- 41_key_expansion R114. -/
theorem test_exec_expand : nextHas (exec .expand (State.reset.withChip { Chip.reset with key := .ofBlock k8 })) (·.chip.statusWord == 0x00001001) := by decide +kernel

/-- TV-HA-4. -/
theorem test_exec_expand_unwritten : nextHas (exec .expand State.reset) fun s => s.faults.unwritten && !s.chip.busy := by decide +kernel

/-- 42_encrypt R124. -/
theorem test_exec_encrypt : nextHas (exec .encrypt idle) fun s => (s.chip.statusWord == 0x00002003) && (s.chip.st == some p8) := by decide +kernel

/-- TV-HA-24. -/
theorem test_exec_encrypt_unwritten : nextHas (exec .encrypt (State.reset.withChip { Chip.reset with key := .ofBlock k8 })) (·.faults.unwritten) := by decide +kernel

/-- 43_decrypt R133. -/
theorem test_exec_decrypt : nextHas (exec .decrypt idle) (·.chip.statusWord == 0x00003003) := by decide +kernel

/-- TV-HA-5. -/
theorem test_exec_illegal_cmd : nextHas (exec (.illegalCmd 7) State.reset) (·.chip.statusWord == 0x00000010) := by decide +kernel

/-- TV-HA-8. -/
theorem test_exec_rsvd_bits : nextHas (exec (.rsvdBits 1 2) State.reset) (·.chip.statusWord == 0x00000020) := by decide +kernel

/-- TV-HA-6. -/
theorem test_exec_rsvd_bits_sticky : nextHas (exec (.rsvdBits 1 2) (idle.withChip { idleChip with err := 1 })) (·.chip.err == 1) := by decide +kernel

/-- TV-EXP-1. -/
theorem test_exec_exp_first : nextHas (exec .expFirst (expanding 0)) fun s =>
    (s.chip.roundKey? 0 == some schedule8[0]) && (s.chip.statusWord == 0x00001101) := by decide +kernel

/-- TV-EXP-1. -/
theorem test_exec_exp_next : nextHas (exec (.expNext 8) (expanding 8)) fun s =>
    (s.chip.roundKey? 8 == some schedule8[8]) && (s.chip.statusWord == 0x00001901) := by decide +kernel

/-- TV-EXP-1. -/
theorem test_exec_exp_last : nextHas (exec .expLast (expanding 9)) fun s =>
    (s.chip.roundKey? 9 == some schedule8[9]) && (s.chip.statusWord == 0x00000002) := by decide +kernel

/-- TV-ENC-1. -/
theorem test_exec_enc_first : nextHas (exec .encFirst (running .encrypt 0 p8)) (·.chip.st == some (blockOfBits 0x046681e5e0cb199a48f8d37a2806264c)) := by decide +kernel

/-- TV-ENC-1. -/
theorem test_exec_enc_mid : nextHas (exec (.encMid 8) (running .encrypt 8 (blockOfBits 0x00512fd1b1c889ff54766dcdfa1b99ea)))
    (·.chip.st == some (blockOfBits 0x473794ed40d4e4a5a3703aa64c9f42bc)) := by decide +kernel

/-- TV-ENC-1. -/
theorem test_exec_enc_last : nextHas (exec .encLast (running .encrypt 9 (blockOfBits 0x473794ed40d4e4a5a3703aa64c9f42bc))) fun s =>
    (s.chip.dout.block? == some c8) && !s.chip.busy := by decide +kernel

/-- TV-DEC-1. -/
theorem test_exec_dec_first : nextHas (exec .decFirst (running .decrypt 0 c8)) (·.chip.st == some (blockOfBits 0xeb40f21e592e38848ba113e71bc342d2)) := by decide +kernel

/-- TV-DEC-1. -/
theorem test_exec_dec_mid : nextHas (exec (.decMid 1) (running .decrypt 1 (blockOfBits 0xeb40f21e592e38848ba113e71bc342d2)))
    (·.chip.st == some (blockOfBits 0xea835cf00445332d655d98ad8596b0c5)) := by decide +kernel

/-- TV-DEC-1. -/
theorem test_exec_dec_last : nextHas (exec .decLast (running .decrypt 9 (blockOfBits 0xa49c7ff2689f352b6b5bea43026a5049))) fun s =>
    (s.chip.dout.block? == some p8) && (s.chip.mode == .idle) := by decide +kernel

/-- 30_encoding R77. -/
theorem test_exec_unreachable : nextHas (exec (.unreachable 1 10) (running .expand 10 p8)) fun s => s.refused && (s.chip.rnd == 10) := by decide +kernel

/-- 60_exceptions R176. -/
theorem test_exec_no_step : nextHas (exec (.noStep 0) idle) (· == idle) := by decide +kernel

/-- TV-HA-17. -/
theorem test_exec_rd32 : nextHas (exec (.rd32 0xD0 4) idle) (readValue · == some 0xd014f9a8) := by decide +kernel

/-- TV-HA-3. -/
theorem test_exec_rd32_unwritten : nextHas (exec (.rd32 0x30 4) State.reset) fun s => s.faults.unwritten && (readValue s).isNone := by decide +kernel

/-- TV-HA-16. -/
theorem test_exec_wr32 : nextHas (exec (.wr32 0x1C 4 0x09cf4f3c) idle) (·.chip.statusWord == 0) := by decide +kernel

/-- TV-HA-22. -/
theorem test_exec_wr32_misaligned_busy : nextHas (exec (.wr32 0x02 4 0) (running .expand 1 p8)) fun s => s.faults.access && !s.faults.busy := by decide +kernel

/-! ## Steps -/

theorem test_fetch_runs_command : nextHas (step (State.reset.withFetchWord 32 0x7)) (·.chip.err == 1) := by decide +kernel

theorem test_fetch_runs_micro_op : nextHas (step (State.reset.withFetchWord 8 0x3C)) (·.refused) := by decide +kernel

/-- TV-HA-26. -/
theorem test_step_reset_while_busy : nextHas (step { running .expand 4 p8 with agenda := [.reset], refused := true }) fun s => (s.chip == Chip.reset) && s.refused := by decide +kernel

/-- 41_key_expansion R119 with U_EXP = 4. -/
theorem test_step_unrolled : nextHas (step { expanding 0 with params := ⟨0, 3, 0⟩ }) fun s => (s.chip.rnd == 4) && (s.chip.roundKey? 3 == some schedule8[3]) := by decide +kernel

/-- TV-DRV-4. -/
theorem test_step_driver_refuses_rounds : nextHas (step (scripted [.call (.encrypt keyBytes schedBytes 12 (bytesOfBlock p8))])) (·.refused) := by decide +kernel

/-- TV-DRV-2. -/
theorem test_step_driver_invalid_length : nextHas (step (scripted [.call (.encrypt keyBytes schedBytes 10 (List.replicate 17 0))]))
    (·.host.results == [.error .invalidLength]) := by decide +kernel

theorem test_driver_pads_nothing : blocksOfBytes (bytesOfBlock p8 ++ bytesOfBlock c8) = [bytesOfBlock p8, bytesOfBlock c8] := by decide +kernel

/-- 93_implementation_defined I10: a command as the last line, with no read of BUSY = 0, is no end of a run. -/
theorem test_step_command_is_no_end : nextHas (step (scripted [cmdLine 1])) fun s =>
    s.host.script.isEmpty && s.host.waiting && s.chip.busy := by decide +kernel

/-- 30_encoding R82: a WAIT's read of BUSY = 1 assigns `s` and loops (TV-HA-19's first value, KSV being 1 here). -/
theorem test_step_wait_assigns : nextHas (step { running .expand 0 p8 with agenda := [.host], host := (scripted [.wait]).host }) fun s =>
    (s.host.vars == [(.s, 0x00001003)]) && (s.host.script == [.wait]) := by decide +kernel

/-- PROG-1's last read: the variable is observed. -/
theorem test_observe_variable : nextHas (step (scripted [.rd32 0x04 .s])) fun s =>
    (s.observe.vars == [(.s, 0x00000002)]) && (s.observe.status == 0x00000002) := by decide +kernel

/-- 10_state R40, 60_exceptions R175: the partial RK of another master's EXPAND is in no observation. -/
theorem test_observe_hides_busy_rk : nextHas (step { expanding 4 with agenda := [.core] }) fun s =>
    s.observe.registers.isNone && (s.chip.roundKey? 4 == some schedule8[4]) := by decide +kernel

/-- PROG-1's end state: the round keys are observed once the block is idle. -/
theorem test_observe_schedule : nextHas (step (expanding 9)) fun s =>
    (s.observe.registers.map fun r => r.rk[9].block?) == some (some schedule8[9]) := by decide +kernel

/-- 30_encoding R83. -/
theorem test_trace_line : Instr.traceLine? (.encMid 3) = some "ENC_MID r=3" := by decide +kernel

/-! ## Witnesses: for each statement with hypotheses, values that meet them, clause by clause and at the ends of their ranges -/

/-- The block of `idleChip` with a result in DOUT. -/
def done : State := State.reset.withChip { idleChip with dout := .ofBlock c8 }

/-- A call of the driver's Encrypt on one block. -/
def oneBlockCall : DriverCall := .encrypt keyBytes schedBytes 10 (bytesOfBlock p8)

theorem test_witness_DecodeUndoesEncode : WellFormed (.rsvdBits 1 0) ∧ WellFormed (.unreachable 3 15) ∧ WellFormed (.wr32 0xFC 4 1) := by decide +kernel

theorem test_witness_EncodeUndoesDecode_read : (Transaction.ofPorts 0x808).size = 4 ∧ (Transaction.ofPorts 0x808).off.toNat % 4 = 0 ∧
    ((Transaction.ofPorts 0x808).dir = .read → (Transaction.ofPorts 0x808).wdata = 0) ∧
    ((Transaction.ofPorts 0x808).dir = .write → (Transaction.ofPorts 0x808).off ≠ 0) := by decide +kernel

theorem test_witness_EncodeUndoesDecode_write : (Transaction.ofPorts 0x2b7e1516821).size = 4 ∧ (Transaction.ofPorts 0x2b7e1516821).off.toNat % 4 = 0 ∧
    ((Transaction.ofPorts 0x2b7e1516821).dir = .read → (Transaction.ofPorts 0x2b7e1516821).wdata = 0) ∧
    ((Transaction.ofPorts 0x2b7e1516821).dir = .write → (Transaction.ofPorts 0x2b7e1516821).off ≠ 0) := by decide +kernel

theorem test_witness_CommandDecodingHasSixOutcomes : (16#32).extractLsb' 4 28 ≠ 0 ∧ 16 ≤ (16#32).toNat ∧ (4 ≤ (4#32).toNat ∧ (4#32).toNat < 16) ∧
    (4 ≤ (15#32).toNat ∧ (15#32).toNat < 16) ∧ (0#32).toNat = 0 ∧ (1#32).toNat = 1 ∧ (2#32).toNat = 2 ∧ (3#32).toNat = 3 := by decide +kernel

theorem test_witness_MicroOpTableRows : (0#4).toNat = 0 ∧ (1 ≤ (1#4).toNat ∧ (1#4).toNat ≤ 8) ∧ (1 ≤ (8#4).toNat ∧ (8#4).toNat ≤ 8) ∧ (9#4).toNat = 9 ∧
    10 ≤ (10#4).toNat ∧ 10 ≤ (15#4).toNat := by decide +kernel

theorem test_witness_StepRunsSelectedMicroOp : let s := running .encrypt 0 p8
    s.nextEvent = .core ∧ s.chip.busy = true ∧ (if s.chip.mode = .expand then s.params.uExp else s.params.uSeq) = 1 := by decide +kernel

theorem test_witness_StepRunsBusTransaction : ∀ addr ∈ [0, 255], let s := { idle with agenda := [.access ⟨.read, addr, 4, 0⟩] }
    s.params.base ≤ addr ∧ addr < s.params.base + 256 := by decide +kernel

theorem test_witness_StepRunsScriptAccess_write : (scripted [.wr32 0x10 (.lit 1)]).nextEvent = .host ∧
    ∃ t, exec (decodeTransaction ⟨.write, 0x10, 4, 1⟩) (scripted [.wr32 0x10 (.lit 1)]).popEvent = .next t ∧
    t.rsp = some ⟨none, false⟩ := ⟨by decide +kernel, next_of_check _ _ (by decide +kernel)⟩

theorem test_witness_StepRunsScriptAccess_read : (scripted [.rd32 0x1C (.scalar 7)]).nextEvent = .host ∧
    ∃ t, exec (decodeTransaction ⟨.read, 0x1C, 4, 0⟩) (scripted [.rd32 0x1C (.scalar 7)]).popEvent = .next t ∧
    t.rsp = some ⟨some 0x09cf4f3c, false⟩ := ⟨by decide +kernel, next_of_check _ _ (by decide +kernel)⟩

theorem test_witness_StepRunsScriptAccess_command : (scripted [cmdLine 1]).nextEvent = .host ∧
    ∃ t, exec (decodeTransaction ⟨.write, 0, 4, 1⟩) (scripted [cmdLine 1]).popEvent = .next t ∧
    t.rsp = some ⟨none, false⟩ := ⟨by decide +kernel, next_of_check _ _ (by decide +kernel)⟩

/-- The two hypotheses of ClearCommandResult; the first is that of CtrlReadsZero, StatusReadGivesFields and DataWordWriteStoresWord too. -/
theorem test_witness_idle_and_busy : idle.chip.busy = false ∧ (running .expand 0 p8).chip.busy = true := by decide +kernel

theorem test_witness_ReservedCommandResult : (4 ≤ (4#32).toNat ∧ (4#32).toNat < 16) ∧ 4 ≤ (15#32).toNat ∧ (15#32).toNat < 16 := by decide +kernel

theorem test_witness_ReservedBitsResult : (16#32).extractLsb' 4 28 ≠ 0 ∧ (0x80000003#32).extractLsb' 4 28 ≠ 0 := by decide +kernel

theorem test_witness_ExpandCommandResult : (idle.chip.busy = false ∧ ∀ k : Fin 4, idle.chip.key[k].isSome = true) ∧
    (State.reset.chip.busy = false ∧ ∃ k : Fin 4, State.reset.chip.key[k] = none) := by decide +kernel

/-- The hypotheses of EncryptCommandResult and DecryptCommandResult. -/
theorem test_witness_CipherCommandResults : (idle.chip.busy = false ∧ idle.chip.din = .ofBlock p8 ∧ (∀ k : Fin 4, idle.chip.key[k].isSome = true) ∧
      ∀ (j : Fin 10) (k : Fin 4), idle.chip.rk[j][k].isSome = true) ∧
    (State.reset.chip.busy = false ∧ ∃ k : Fin 4, State.reset.chip.din[k] = none ∨ State.reset.chip.key[k] = none ∨
      ∃ j : Fin 10, State.reset.chip.rk[j][k] = none) := by decide +kernel

theorem test_witness_ErrorStaysUntilClear : (∃ t, exec .clear (idle.withChip { idleChip with err := 2 }) = .next t) ∧
    (idle.withChip { idleChip with err := 2 }).chip.err ≠ 0 := ⟨next_of_some _ (by decide +kernel), by decide +kernel⟩

theorem test_witness_ExpandIterationResults : (expanding 0).chip.key.block? = some k8 ∧ ((expanding 1).chip.rk[0]).block? = some schedule8[0] ∧
    ((expanding 8).chip.rk[7]).block? = some schedule8[7] ∧ ((expanding 9).chip.rk[8]).block? = some schedule8[8] := by decide +kernel

/-- The hypotheses of EncryptIterationResults, at r = 1 and r = 8. -/
theorem test_witness_EncryptIterationResults : let s := running .encrypt 8 p8
    s.chip.st = some p8 ∧ s.chip.key.block? = some k8 ∧ s.chip.rk[0].block? = some schedule8[0] ∧
    s.chip.rk[7].block? = some schedule8[7] ∧ s.chip.rk[8].block? = some schedule8[8] ∧ s.chip.rk[9].block? = some schedule8[9] := by decide +kernel

theorem test_witness_DecryptIterationResults : let s := running .decrypt 1 c8
    s.chip.st = some c8 ∧ s.chip.rk[9].block? = some schedule8[9] ∧ s.chip.rk[8].block? = some schedule8[8] ∧
    s.chip.rk[1].block? = some schedule8[1] ∧ s.chip.rk[0].block? = some schedule8[0] ∧ s.chip.key.block? = some k8 := by decide +kernel

theorem test_witness_ExpandIterationFrame : (∃ t, exec .expFirst (expanding 0) = .next t) ∧ (∃ t, exec (.expNext 8) (expanding 8) = .next t) ∧
    ∃ t, exec .expLast (expanding 9) = .next t := ⟨next_of_some _ (by decide +kernel), next_of_some _ (by decide +kernel), next_of_some _ (by decide +kernel)⟩

theorem test_witness_CipherIterationFrame : ∀ i ∈ [Instr.encFirst, .encLast, .decFirst, .decLast, .encMid 8, .decMid 1],
    nextHas (exec i (running .encrypt 1 p8)) fun _ => true := by decide +kernel

theorem test_witness_UnreachableWordsAreRefused : ∀ r ∈ [10#4, 15#4], (running .decrypt r p8).chip.mode ≠ .idle ∧ 10 ≤ (running .decrypt r p8).chip.rnd.toNat := by decide +kernel

theorem test_witness_IdleCoreHasNoStep : ({ idle with agenda := [.core] } : State).nextEvent = .core ∧ ({ idle with agenda := [.core] } : State).chip.busy = false := by decide +kernel

theorem test_witness_DataWordReadReturnsValue : done.chip.busy = false ∧ done.chip.key[3] = some 0x09cf4f3c ∧ done.chip.din[0] = some 0x3243f6a8 ∧
    done.chip.dout[3] = some 0x196a0b32 ∧ done.chip.rk[9][3] = some 0xb6630ca6 := by decide +kernel

theorem test_witness_ReadAfterWriteReturnsValue : ∀ off ∈ [0x10#8, 0x2C#8, 0x40#8, 0xDC#8], off.toNat % 4 = 0 ∧ (locate off).isWritable = true := by decide +kernel

theorem test_witness_HostWriteFrame : (∃ t, exec (.wr32 0xDC 4 1) idle = .next t) ∧ locate 0xDC ≠ .ctrl ∧
    (∀ k, locate 0x20 ≠ .key k) ∧ ∀ j k, locate 0x20 ≠ .rk j k := ⟨next_of_some _ (by decide +kernel), by decide +kernel⟩

theorem test_witness_RoundKeyWordOffsets : ∀ off ∈ [0x40#8, 0xDC#8], 0x40 ≤ off.toNat ∧ off.toNat ≤ 0xDC ∧ off.toNat % 4 = 0 := by decide +kernel

theorem test_witness_AccessChecksInOrder_bad : ∀ off ∈ [0x02#8, 0x08#8, 0x0C#8, 0xE0#8, 0xFC#8],
    (4 ≠ 4 ∨ off.toNat % 4 ≠ 0 ∨ off = 0x08 ∨ off = 0x0C ∨ 0xE0 ≤ off.toNat) := by decide +kernel

theorem test_witness_AccessChecksInOrder_good : ∀ off ∈ [0x00#8, 0x04#8, 0x10#8, 0x30#8, 0x3C#8, 0xDC#8],
    ¬(4 ≠ 4 ∨ off.toNat % 4 ≠ 0 ∨ off = 0x08 ∨ off = 0x0C ∨ 0xE0 ≤ off.toNat) := by decide +kernel

theorem test_witness_AccessChecksInOrder_unwritten : ∀ off ∈ [0x10#8, 0x3C#8, 0xDC#8], State.reset.chip.dataWord? (locate off) = some none := by decide +kernel

theorem test_witness_FaultsChangeNothingElse : ∃ t, exec (.rd32 0x30 4) State.reset = .next t ∧ t.faults ≠ State.reset.faults := next_of_check _ _ (by decide +kernel)

/-- The hypotheses of MarksAreNeverCleared, whose first is that of ParametersNeverChange. -/
theorem test_witness_MarksAreNeverCleared : (∃ t, step ((running .expand 4 p8).raise .busy).refuse = .next t) ∧
    ((running .expand 4 p8).raise .busy).refuse.faults.has .busy = true ∧
    ((running .expand 4 p8).raise .busy).refuse.refused = true := ⟨next_of_some _ (by decide +kernel), by decide +kernel⟩

theorem test_witness_ResetEventForcesReset : ({ running .expand 4 p8 with agenda := [.reset] } : State).nextEvent = .reset := by decide +kernel

/-- The hypotheses of the statements that every step keeps an invariant, in a running EXPAND and in a running ENCRYPT. -/
theorem test_witness_StepKeepsInvariants :
    ((expanding 4).chip.SequencerOk ∧ (expanding 4).chip.OperandsHeld ∧ (expanding 4).chip.ErrLegal) ∧
      ((running .encrypt 9 p8).chip.SequencerOk ∧ (running .encrypt 9 p8).chip.OperandsHeld) ∧
      (∃ t, step (expanding 4) = .next t) ∧ ∃ t, step (running .encrypt 9 p8) = .next t := by
  unfold Chip.SequencerOk Chip.OperandsHeld Chip.ErrLegal
  exact ⟨by decide +kernel, by decide +kernel, next_of_some _ (by decide +kernel), next_of_some _ (by decide +kernel)⟩

/-- The hypothesis of StepKeepsScheduleValidity, with KSV = 1 and in a running EXPAND. -/
theorem test_witness_StepKeepsScheduleValidity :
    (running .encrypt 3 p8).chip.ScheduleOk ∧ (running .encrypt 3 p8).chip.ksv = true ∧ (expanding 4).chip.ScheduleOk := by
  unfold Chip.ScheduleOk Chip.HoldsRoundKey
  refine ⟨⟨fun _ => ⟨k8, by decide +kernel, by decide +kernel⟩, fun h => absurd h (by decide +kernel)⟩, by decide +kernel,
    fun h => absurd h (by decide +kernel), fun _ => ⟨k8, by decide +kernel, by decide +kernel⟩⟩

/-- The hypotheses of CoreStepHasNoException, a step that completes and one that does not. -/
theorem test_witness_CoreStepHasNoException :
    (running .decrypt 9 c8).nextEvent = .core ∧ (running .decrypt 9 c8).chip.busy = true ∧
      10 ≤ (running .decrypt 9 c8).chip.rnd.toNat + (running .decrypt 9 c8).params.uSeq ∧
      (running .decrypt 8 c8).chip.rnd.toNat + (running .decrypt 8 c8).params.uSeq < 10 := by
  decide +kernel

theorem test_witness_ExpandRunWritesSchedule : let s := { expanding 0 with params := ⟨5, 9, 3⟩ }
    s.agenda = [] ∧ s.chip.busy = true ∧ s.chip.mode = .expand ∧ s.chip.rnd = 0 ∧ s.chip.key.block? = some k8 := by decide +kernel

theorem test_witness_EncryptRunWritesCiphertext : let s := running .encrypt 0 p8
    s.agenda = [] ∧ s.chip.busy = true ∧ s.chip.mode = .encrypt ∧ s.chip.rnd = 0 ∧ s.chip.st = some p8 ∧
    s.chip.key.block? = some k8 ∧ ∀ j : Fin 10, s.chip.rk[j].block? = some schedule8[j] := by decide +kernel

theorem test_witness_DecryptRunWritesPlaintext : let s := running .decrypt 0 c8
    s.agenda = [] ∧ s.chip.busy = true ∧ s.chip.mode = .decrypt ∧ s.chip.rnd = 0 ∧ s.chip.st = some c8 ∧
    s.chip.key.block? = some k8 ∧ ∀ j : Fin 10, s.chip.rk[j].block? = some schedule8[j] := by decide +kernel

theorem test_witness_WaitEndsOnlyWhenIdle : let s := scripted [.wait]
    let b := { running .expand 2 p8 with agenda := [.host], host := s.host }
    s.nextEvent = .host ∧ s.host.halted = false ∧ s.chip.busy = false ∧ (s.faults = .none ∧ s.refused = false) ∧
    b.nextEvent = .host ∧ b.host.halted = false ∧ b.host.script = [.wait] ∧ b.chip.busy = true := by decide +kernel

theorem test_witness_FaultStopsHostProgram : (∃ t, exec (decodeTransaction ⟨.write, 0x30, 4, 0⟩) (scripted [.wr32 0x30 (.lit 0)]).popEvent = .next t ∧
      t.rsp = some ⟨none, true⟩) ∧
    ∃ t, exec (decodeTransaction ⟨.read, 0x30, 4, 0⟩) (scripted [.rd32 0x30 (.scalar 0)]).popEvent = .next t ∧ t.rsp = none := ⟨next_of_check _ _ (by decide +kernel), next_of_check _ _ (by decide +kernel)⟩

theorem test_witness_DriverErrorsTouchNoBlock : (scripted [.call oneBlockCall]).nextEvent = .host ∧ (scripted [.call oneBlockCall]).host.halted = false ∧
    (keyBytes.drop 1).length ≠ 16 ∧ keyBytes.length = 16 ∧ (bytesOfBlock p8 ++ [0]).length % 16 ≠ 0 ∧ scheduleShape schedBytes = true := by decide +kernel

theorem test_witness_DriverRefusals : (12 : BitVec 32) ≠ 10 ∧ (keyBytes.length = 16 ∧ (bytesOfBlock p8).length % 16 = 0 ∧
    ¬((schedBytes.drop 1).length = 10 ∧ ∀ k ∈ schedBytes.drop 1, k.length = 16)) := by decide +kernel

/-- The hypotheses of DriverReturnsTransformedBuffer, and of BufferRoundTrip. -/
theorem test_witness_DriverReturnsTransformedBuffer : let s := scripted [.call oneBlockCall]
    s.agenda = [] ∧ s.chip.busy = false ∧ s.host.halted = false ∧ s.host.waiting = false ∧ (s.faults = .none ∧ s.refused = false) ∧ keyBytes.length = 16 ∧ schedBytes.length = 10 ∧
    (∀ k ∈ schedBytes, k.length = 16) ∧ (bytesOfBlock p8).length % 16 = 0 ∧
    s.host.script = [.call (.encrypt keyBytes schedBytes 10 (bytesOfBlock p8))] := by decide +kernel

theorem test_witness_DriverReturnsSchedule : let s := scripted [.call (.expandKey128 keyBytes)]
    s.agenda = [] ∧ s.chip.busy = false ∧ s.host.halted = false ∧ s.host.waiting = false ∧ (s.faults = .none ∧ s.refused = false) ∧ keyBytes.length = 16 ∧
    s.host.script = [.call (.expandKey128 keyBytes)] := by decide +kernel

theorem test_witness_DriverReturnsTransformedBuffer_decrypt : let s := scripted [.call (.decrypt keyBytes schedBytes 10 [])]
    s.agenda = [] ∧ s.chip.busy = false ∧ s.host.halted = false ∧ s.host.waiting = false ∧ (s.faults = .none ∧ s.refused = false) ∧ ([] : List Byte).length % 16 = 0 ∧
    s.host.script = [.call (.decrypt keyBytes schedBytes 10 [])] := by decide +kernel

end Sys2Proof.Tests
end

/-! The parts of the state that an operation never touches, and the two statements of the spec's scope that rest on
them (00_scope R6, R7). -/

namespace Sys2Proof.Machine

/-! ## What surrounds the block stays as it is -/

section SameAround
variable (s : State)

theorem State.sameAround_expandCommand : s.SameAround s.expandCommand := by
  obtain ⟨-, h⟩ | ⟨-, h⟩ := s.expandCommand_cases <;> rw [h] <;> exact ⟨rfl, rfl, rfl, rfl⟩

theorem State.sameAround_cipherCommand (m : Mode) : s.SameAround (s.cipherCommand m) := by
  obtain ⟨_, -, -, -, h⟩ | ⟨-, h⟩ := s.cipherCommand_cases m <;> rw [h] <;> exact ⟨rfl, rfl, rfl, rfl⟩

theorem State.sameAround_ctrlWrite (v : HostWord) : s.SameAround (s.ctrlWrite v) := by
  obtain h | h | h | h | h | h | h := s.ctrlWrite_cases v <;> rw [h]
  · exact ⟨rfl, rfl, rfl, rfl⟩
  · exact ⟨rfl, rfl, rfl, rfl⟩
  · exact ⟨rfl, rfl, rfl, rfl⟩
  · exact ⟨rfl, rfl, rfl, rfl⟩
  · exact s.sameAround_expandCommand
  · exact s.sameAround_cipherCommand .encrypt
  · exact s.sameAround_cipherCommand .decrypt

theorem State.sameAround_hostRead (off : BitVec 8) (size : Nat) : s.SameAround (s.hostRead off size) := by
  obtain ⟨_, h⟩ | h | h | h := s.hostRead_cases off size <;> rw [h] <;> exact ⟨rfl, rfl, rfl, rfl⟩

theorem State.sameAround_hostWrite (off : BitVec 8) (size : Nat) (x : HostWord) :
    s.SameAround (s.hostWrite off size x) := by
  obtain ⟨-, -, h⟩ | ⟨-, -, h⟩ | h | ⟨-, h⟩ := s.hostWrite_cases off size x <;> rw [h]
  · exact ⟨rfl, rfl, rfl, rfl⟩
  · exact s.sameAround_ctrlWrite x
  · exact ⟨rfl, rfl, rfl, rfl⟩
  · exact ⟨rfl, rfl, rfl, rfl⟩

theorem State.sameAround_iterate (o : Option Chip) : s.SameAround (s.iterate o) := by
  cases o <;> exact ⟨rfl, rfl, rfl, rfl⟩

end SameAround

/-! ## What an operation can answer -/

/-- Each of the six command operations is the CTRL write of a word that decodes to it, so that a proof over every
operation meets the commands in one case. -/
theorem exec_cases (i : Instr) (s t : State) (h : exec i s = .next t) :
    (∃ v, t = s.ctrlWrite v) ∨ (∃ off size, t = s.hostRead off size) ∨ (∃ off size x, t = s.hostWrite off size x) ∨
      (∃ o, t = s.iterate o) ∨ t = s.refuse ∨ t = s := by
  cases i with
  | clear => cases h; exact .inl ⟨0, rfl⟩
  | expand => cases h; exact .inl ⟨1, rfl⟩
  | encrypt => cases h; exact .inl ⟨2, rfl⟩
  | decrypt => cases h; exact .inl ⟨3, rfl⟩
  | illegalCmd cmd => cases h; exact .inl ⟨4, rfl⟩
  | rsvdBits rsvd cmd => cases h; exact .inl ⟨16, rfl⟩
  | expNext r =>
    simp only [exec, execExpNext] at h
    split at h <;> cases h
    exact .inr (.inr (.inr (.inl ⟨_, rfl⟩)))
  | encMid r =>
    simp only [exec, execEncMid] at h
    split at h <;> cases h
    exact .inr (.inr (.inr (.inl ⟨_, rfl⟩)))
  | decMid r =>
    simp only [exec, execDecMid] at h
    split at h <;> cases h
    exact .inr (.inr (.inr (.inl ⟨_, rfl⟩)))
  | expFirst | expLast | encFirst | encLast | decFirst | decLast =>
    cases h
    exact .inr (.inr (.inr (.inl ⟨_, rfl⟩)))
  | unreachable mode rnd => cases h; exact .inr (.inr (.inr (.inr (.inl rfl))))
  | noStep rnd => cases h; exact .inr (.inr (.inr (.inr (.inr rfl))))
  | rd32 off size => cases h; exact .inr (.inl ⟨_, _, rfl⟩)
  | wr32 off size x => cases h; exact .inr (.inr (.inl ⟨_, _, _, rfl⟩))

/-- Only the unreachable words change anything around the block, and they set REFUSED alone (30_encoding R77). -/
theorem exec_sameAround_or_refuse (i : Instr) (s t : State) (h : exec i s = .next t) : s.SameAround t ∨ t = s.refuse := by
  obtain ⟨v, rfl⟩ | ⟨off, size, rfl⟩ | ⟨off, size, x, rfl⟩ | ⟨o, rfl⟩ | rfl | rfl := exec_cases i s t h
  · exact .inl (s.sameAround_ctrlWrite v)
  · exact .inl (s.sameAround_hostRead off size)
  · exact .inl (s.sameAround_hostWrite off size x)
  · exact .inl (s.sameAround_iterate o)
  · exact .inr rfl
  · exact .inl ⟨rfl, rfl, rfl, rfl⟩

/-! ## The parameters -/

theorem exec_params (i : Instr) (s t : State) (h : exec i s = .next t) : t.params = s.params := by
  obtain ⟨-, hp, -, -⟩ | rfl := exec_sameAround_or_refuse i s t h
  · exact hp
  · rfl

theorem coreStep_params (s t : State) (h : coreStep s = .next t) : t.params = s.params := by
  unfold coreStep at h
  split at h
  · exact coreIterations_keeps (·.params = s.params) (fun u u' hu he => (exec_params _ u u' he).trans hu) _ s t rfl h
  · exact exec_params _ s t h

/-- Settles O35: an access and a core step are operations of the block, none of which writes the parameters, and every
other event changes the host, the marks or the block alone. -/
theorem parametersNeverChange : Obligations.ParametersNeverChange := by
  intro s t h
  obtain ⟨tr, ha⟩ | ⟨tr, s', h', ha, rfl⟩ | ⟨-, hc⟩ | ⟨-, rfl⟩ | ⟨h', rfl⟩ | rfl | rfl := step_cases s t h
  · exact exec_params _ s.popEvent t ha
  · exact exec_params _ s.popEvent s' ha
  · exact coreStep_params s.popEvent t hc
  all_goals rfl

/-! ## The driver's refusals -/

/-- A host event of a host that has not stopped issues the first line of its script. -/
theorem step_of_host_line (s : State) (line : HostLine) (rest : List HostLine) (he : s.nextEvent = .host)
    (hh : s.host.halted = false) (hs : s.host.script = line :: rest) : step s = issueLine line rest s.popEvent := by
  simp [step, runEvent, he, hostTurn, hh, hs]

/-- A refused call stays the next line (60_exceptions R163, log 12). -/
theorem issueLine_call_of_refuse (c : DriverCall) (rest : List HostLine) (s : State) (hc : planCall c = .refuse) :
    issueLine (.call c) rest s = .next s.refuse := by
  simp [issueLine, hc]

theorem scheduleShape_iff (sched : List (List Byte)) :
    scheduleShape sched = true ↔ sched.length = 10 ∧ ∀ k ∈ sched, k.length = 16 := by
  simp [scheduleShape]

section PlanCipher
variable (cmd : HostWord) (key : List Byte) (sched : List (List Byte)) (rounds : BitVec 32) (input : List Byte)

theorem planCipher_of_rounds (hr : rounds ≠ 10) : planCipher cmd key sched rounds input = .refuse :=
  if_pos hr

/-- The lengths are checked before the schedule, so a malformed schedule is refused only where they are legal. Where
ROUNDS is not 10 the call is refused as well, so nothing is asked of it. -/
theorem planCipher_of_not_shape (hk : key.length = 16) (hi : input.length % 16 = 0) (hs : ¬scheduleShape sched = true) :
    planCipher cmd key sched rounds input = .refuse := by
  simp [planCipher, hk, hi, hs]

end PlanCipher

/-- Settles O57: the plan of both calls is a refusal, by the rounds check or by the schedule check. -/
theorem driverRefusals : Obligations.DriverRefusals := by
  intro s c rest key sched rounds input he hh hs hc hbad
  have plan (cmd : HostWord) : planCipher cmd key sched rounds input = .refuse := by
    obtain hr | ⟨hk, hi, hshape⟩ := hbad
    · exact planCipher_of_rounds cmd key sched rounds input hr
    · exact planCipher_of_not_shape cmd key sched rounds input hk hi (mt (scheduleShape_iff sched).mp hshape)
  have hplan : planCall c = .refuse := by
    obtain rfl | rfl := hc
    · exact plan 2
    · exact plan 3
  rw [step_of_host_line s _ rest he hh hs, issueLine_call_of_refuse c rest _ hplan]
  rfl

end Sys2Proof.Machine

/-! What one event can do to the block, said once as two relations on blocks (an access at the port, and an iteration of
the core), and the statements of 10_state: the invariants every step keeps (10_state R32, R33, R39), the marks, the status
fields, and reset. -/

namespace Sys2Proof.Machine

/-! ## What an access can do to the block -/

/-- `c.Accessed v c'`: `c'` is a block that an access presenting the data `v` can leave of `c` (44_host_access R139 to
R145). A read, a fault and a refused write leave it as it is. -/
inductive Chip.Accessed (c : Chip) (v : HostWord) : Chip → Prop where
  | unchanged : c.Accessed v c
  /-- CLEAR (44_host_access R142). -/
  | cleared (idle : c.busy = false) (command : v = 0) : c.Accessed v c.clearErr
  /-- A rejected command word (60_exceptions R158, R159). -/
  | rejected {code : BitVec 4} (idle : c.busy = false) (legal : code = errIllegalCmd ∨ code = errRsvdBits) :
      c.Accessed v (c.setError code)
  /-- EXPAND, accepted (41_key_expansion R114). -/
  | expandStarted (idle : c.busy = false) (key : c.key.isWritten = true) : c.Accessed v (c.start .expand)
  /-- ENCRYPT or DECRYPT, accepted (42_encrypt R124, 43_decrypt R133). -/
  | cipherStarted {m : Mode} {p : Block} (idle : c.busy = false) (cipher : m = .encrypt ∨ m = .decrypt)
      (din : c.din.block? = some p) (key : c.key.isWritten = true) (schedule : c.scheduleWritten = true) :
      c.Accessed v ((c.storeSt p).start m)
  /-- A word stored (44_host_access R140). -/
  | stored {l : Location} (idle : c.busy = false) (writable : l.isWritable = true) : c.Accessed v (c.writeWord v l)

section Access
variable (s : State) (off : BitVec 8) (size : Nat) (x : HostWord)

@[simp] theorem State.reject_chip (code : BitVec 4) : (s.reject code).chip = s.chip.setError code := rfl
@[simp] theorem State.clearCommand_chip : s.clearCommand.chip = s.chip.clearErr := rfl

theorem State.accessed_expandCommand (idle : s.chip.busy = false) : s.chip.Accessed x s.expandCommand.chip := by
  obtain ⟨hk, h⟩ | ⟨-, h⟩ := s.expandCommand_cases <;> rw [h]
  · exact .expandStarted idle hk
  · exact .unchanged

theorem State.accessed_cipherCommand {m : Mode} (idle : s.chip.busy = false) (hm : m = .encrypt ∨ m = .decrypt) :
    s.chip.Accessed x (s.cipherCommand m).chip := by
  obtain ⟨p, hd, hk, hs, h⟩ | ⟨-, h⟩ := s.cipherCommand_cases m <;> rw [h]
  · exact .cipherStarted idle hm hd hk hs
  · exact .unchanged

/-- A word whose two fields are zero is 0, so CLEAR has one command word (30_encoding R70). -/
theorem eq_zero_of_fields {v : BitVec 32} (hr : v.extractLsb' 4 28 = 0) (hc : v.extractLsb' 0 4 = 0) : v = 0 := by
  have h : v = v.extractLsb' 4 28 ++ v.extractLsb' 0 4 :=
    (BitVec.extractLsb'_append_extractLsb' (w := 28) (len := 4)).symm
  rw [h, hr, hc]
  rfl

theorem State.accessed_ctrlWrite : s.chip.Accessed x (s.ctrlWrite x).chip := by
  unfold State.ctrlWrite
  cases hy : s.chip.busy
  · rw [State.commandWhenIdle_idle _ _ hy]
    split_ifs with hr _ hc
    · exact .rejected hy (.inr rfl)
    · exact .rejected hy (.inl rfl)
    · exact .cleared hy (eq_zero_of_fields (not_not.mp hr) hc)
    · exact s.accessed_expandCommand x hy
    · exact s.accessed_cipherCommand x hy (.inl rfl)
    · exact s.accessed_cipherCommand x hy (.inr rfl)
  · rw [State.commandWhenIdle_busy _ _ hy]
    exact .unchanged

theorem State.accessed_hostWrite : s.chip.Accessed x (s.hostWrite off size x).chip := by
  obtain ⟨hy, hw, h⟩ | ⟨-, -, h⟩ | h | ⟨-, h⟩ := s.hostWrite_cases off size x <;> rw [h]
  · exact .stored hy hw
  · exact s.accessed_ctrlWrite x
  · exact .unchanged
  · exact .unchanged

/-- The operation of a command word is the write of that word to CTRL (44_host_access R141). -/
theorem exec_decodeCommand : exec (decodeCommand x) s = .next (s.ctrlWrite x) := by
  unfold decodeCommand State.ctrlWrite
  dsimp only
  split_ifs <;> rfl

end Access

/-- An access at the port is a read, or it is a command or another write. -/
theorem portAccess_accessed (tr : Transaction) (s t : State) (h : portAccess tr s = .next t) :
    ∃ v, s.chip.Accessed v t.chip := by
  obtain ⟨dir, off, size, wdata⟩ := tr
  unfold portAccess decodeTransaction at h
  cases dir with
  | read =>
    cases h
    exact ⟨0, by rw [State.hostRead_chip]; exact .unchanged⟩
  | write =>
    refine ⟨wdata, ?_⟩
    dsimp only at h
    split at h
    · rw [exec_decodeCommand] at h
      cases h
      exact s.accessed_ctrlWrite wdata
    · cases h
      exact s.accessed_hostWrite off size wdata

/-! ## What an iteration can do to the block -/

/-- The mode whose iterations a micro-operation performs, and none for any other operation (30_encoding R75). -/
def microOpMode? : Instr → Option Mode
  | .expFirst | .expNext _ | .expLast => some .expand
  | .encFirst | .encMid _ | .encLast => some .encrypt
  | .decFirst | .decMid _ | .decLast => some .decrypt
  | .clear | .expand | .encrypt | .decrypt | .illegalCmd _ | .rsvdBits _ _ => none
  | .unreachable _ _ | .noStep _ | .rd32 _ _ | .wr32 _ _ _ => none

/-- The value that iteration `j` of the expansion starts from: KEY, and after it the round key before (41_key_expansion
R115 to R117). -/
def Chip.expandSource? (c : Chip) : Fin 10 → Option Block
  | ⟨0, _⟩ => c.key.block?
  | ⟨j + 1, h⟩ => c.roundKey? ⟨j, Nat.lt_of_succ_lt h⟩

theorem Chip.expandSource?_of_pos (c : Chip) {j : Nat} (h : j < 10) (h1 : 1 ≤ j) :
    c.expandSource? ⟨j, h⟩ = c.roundKey? ⟨j - 1, by omega⟩ := by
  obtain ⟨i, rfl⟩ := Nat.exists_eq_add_of_le' h1
  rfl

/-- `c.Iterated i c'`: `c'` is a block that the micro-operation `i` can leave of `c` (41_key_expansion R115 to R117,
42_encrypt R125 to R127, 43_decrypt R134 to R136). What a cipher iteration puts into ST and DOUT is left open. -/
inductive Chip.Iterated (c : Chip) (i : Instr) : Chip → Prop where
  /-- A word that is no iteration, or an unwritten operand. -/
  | unchanged : c.Iterated i c
  | expandRound {r : BitVec 4} {p : Block} (mode : microOpMode? i = some .expand) (iteration : i.iteration? = some r.toNat)
      (h : r.toNat ≤ 8) (source : c.expandSource? ⟨r.toNat, by omega⟩ = some p) :
      c.Iterated i ((c.storeRoundKey ⟨r.toNat, by omega⟩ (nextRoundKey p (rcon (r.toNat + 1)))).setRnd (r + 1))
  | expandDone {p : Block} (mode : microOpMode? i = some .expand) (iteration : i.iteration? = some 9)
      (source : c.expandSource? 9 = some p) :
      c.Iterated i ((c.storeRoundKey 9 (nextRoundKey p (rcon 10))).setKsv true).complete
  | cipherRound {m : Mode} {r : BitVec 4} {v : Block} (mode : microOpMode? i = some m) (cipher : m ≠ .expand)
      (iteration : i.iteration? = some r.toNat) (h : r.toNat ≤ 8) : c.Iterated i ((c.storeSt v).setRnd (r + 1))
  | cipherDone {m : Mode} {v : Block} (mode : microOpMode? i = some m) (cipher : m ≠ .expand)
      (iteration : i.iteration? = some 9) : c.Iterated i ((c.storeSt v).storeDout v).complete

/-- An iteration does what its effect says, or nothing where an operand is unwritten. -/
theorem State.iterated_iterate (s : State) (i : Instr) (o : Option Chip) (h : ∀ c ∈ o, s.chip.Iterated i c) :
    s.chip.Iterated i (s.iterate o).chip := by
  cases o with
  | none => exact .unchanged
  | some c => exact h c rfl

/-- A round of either cipher, whatever transform `f` it makes of ST and its round key. -/
theorem State.iterated_cipherRound (s : State) {i : Instr} {m : Mode} {r : BitVec 4} (key : Option Block)
    (f : Block → Block → Block) (mode : microOpMode? i = some m) (cipher : m ≠ .expand)
    (iteration : i.iteration? = some r.toNat) (h : r.toNat ≤ 8) :
    s.chip.Iterated i (s.iterate (do
      let st ← s.chip.st
      let k ← key
      pure ((s.chip.storeSt (f st k)).setRnd (r + 1)))).chip := by
  refine s.iterated_iterate i _ fun c hc => ?_
  obtain ⟨st, -, hc⟩ := Option.bind_eq_some_iff.mp hc
  obtain ⟨k, -, ⟨⟩⟩ := Option.bind_eq_some_iff.mp hc
  exact .cipherRound mode cipher iteration h

/-- A micro-operation word's operation, and no access (30_encoding R67). -/
theorem exec_iterated (i : Instr) (s t : State) (hi : i.bitLength = 6) (h : exec i s = .next t) :
    s.chip.Iterated i t.chip := by
  cases i with
  | expFirst =>
    cases h
    refine s.iterated_iterate _ _ fun c hc => ?_
    obtain ⟨k, hk, rfl⟩ := Option.map_eq_some_iff.mp hc
    exact .expandRound (r := 0) rfl rfl (Nat.zero_le 8) hk
  | expNext r =>
    simp only [exec, execExpNext] at h
    split at h <;> cases h
    next hr =>
    refine s.iterated_iterate _ _ fun c hc => ?_
    obtain ⟨p, hp, rfl⟩ := Option.map_eq_some_iff.mp hc
    exact .expandRound rfl rfl hr.2 ((s.chip.expandSource?_of_pos (by omega) hr.1).trans hp)
  | expLast =>
    cases h
    refine s.iterated_iterate _ _ fun c hc => ?_
    obtain ⟨p, hp, rfl⟩ := Option.map_eq_some_iff.mp hc
    exact .expandDone rfl rfl hp
  | encFirst =>
    cases h
    exact s.iterated_cipherRound (r := 0) _ (fun st k => mixColumns (aese st k)) rfl (by decide) rfl (Nat.zero_le 8)
  | decFirst =>
    cases h
    exact s.iterated_cipherRound (r := 0) _ aesd rfl (by decide) rfl (Nat.zero_le 8)
  | encMid r =>
    simp only [exec, execEncMid] at h
    split at h <;> cases h
    next hr => exact s.iterated_cipherRound _ (fun st k => mixColumns (aese st k)) rfl (by decide) rfl hr.2
  | decMid r =>
    simp only [exec, execDecMid] at h
    split at h <;> cases h
    next hr => exact s.iterated_cipherRound _ decryptPass rfl (by decide) rfl hr.2
  | encLast | decLast =>
    cases h
    refine s.iterated_iterate _ _ fun c hc => ?_
    obtain ⟨st, -, hc⟩ := Option.bind_eq_some_iff.mp hc
    obtain ⟨k, -, hc⟩ := Option.bind_eq_some_iff.mp hc
    obtain ⟨k', -, ⟨⟩⟩ := Option.bind_eq_some_iff.mp hc
    exact .cipherDone rfl (by decide) rfl
  | unreachable _ _ | noStep _ =>
    cases h
    exact .unchanged
  | clear | expand | encrypt | decrypt | illegalCmd _ | rsvdBits _ _ | rd32 _ _ | wr32 _ _ _ => cases hi

/-! ## The operation that UOP selects -/

theorem decodeRound_bitLength (mode : BitVec 2) (rnd : BitVec 4) {first last : Instr} {mid : BitVec 4 → Instr}
    (hf : first.bitLength = 6) (hm : (mid rnd).bitLength = 6) (hl : last.bitLength = 6) :
    (decodeRound mode rnd first mid last).bitLength = 6 := by
  unfold decodeRound
  split_ifs
  · exact hf
  · exact hm
  · exact hl
  · rfl

theorem decodeMicroOp_bitLength (u : BitVec 6) : (decodeMicroOp u).bitLength = 6 := by
  unfold decodeMicroOp
  dsimp only
  split_ifs
  · rfl
  all_goals exact decodeRound_bitLength _ _ rfl rfl rfl

/-- Where RND is an iteration number, `decodeRound` selects the micro-operation of that number (30_encoding R75). -/
theorem decodeRound_iteration (mode : BitVec 2) (rnd : BitVec 4) {first last : Instr} {mid : BitVec 4 → Instr} {n : Nat}
    (hf : first.iteration? = some 0) (hm : (mid rnd).iteration? = some rnd.toNat) (hl : last.iteration? = some 9)
    (h : (decodeRound mode rnd first mid last).iteration? = some n) : rnd.toNat = n := by
  unfold decodeRound at h
  split_ifs at h with h0 _ h9
  · subst h0
    exact Option.some.inj (hf.symm.trans h)
  · exact Option.some.inj (hm.symm.trans h)
  · subst h9
    exact Option.some.inj (hl.symm.trans h)
  · cases h

/-- `decodeRound` selects no iteration, or one of the mode whose micro-operations it is given. -/
theorem decodeRound_mode (mode : BitVec 2) (rnd : BitVec 4) {first last : Instr} {mid : BitVec 4 → Instr} {m m' : Mode}
    (hf : microOpMode? first = some m) (hm : microOpMode? (mid rnd) = some m) (hl : microOpMode? last = some m)
    (h : microOpMode? (decodeRound mode rnd first mid last) = some m') : m = m' := by
  unfold decodeRound at h
  split_ifs at h
  · exact Option.some.inj (hf.symm.trans h)
  · exact Option.some.inj (hm.symm.trans h)
  · exact Option.some.inj (hl.symm.trans h)
  · cases h

/-- The rows of the table for each mode (30_encoding R74, R75). -/
theorem decodeMicroOp_uop (c : Chip) : decodeMicroOp c.uop =
    match c.mode with
    | .idle => .noStep c.rnd
    | .expand => decodeRound 1 c.rnd .expFirst .expNext .expLast
    | .encrypt => decodeRound 2 c.rnd .encFirst .encMid .encLast
    | .decrypt => decodeRound 3 c.rnd .decFirst .decMid .decLast := by
  unfold decodeMicroOp Chip.uop
  rw [BitVec.extractLsb'_append_eq_left, BitVec.extractLsb'_append_eq_right]
  cases c.mode <;> rfl

theorem decodeMicroOp_uop_mode {c : Chip} {m : Mode} (h : microOpMode? (decodeMicroOp c.uop) = some m) : c.mode = m := by
  rw [decodeMicroOp_uop] at h
  split at h
  · cases h
  all_goals
    next hm => exact hm.trans (decodeRound_mode _ _ rfl rfl rfl h)

theorem decodeMicroOp_uop_iteration {c : Chip} {n : Nat} (h : (decodeMicroOp c.uop).iteration? = some n) :
    c.rnd.toNat = n := by
  rw [decodeMicroOp_uop] at h
  split at h
  · cases h
  all_goals exact decodeRound_iteration _ _ rfl rfl rfl h

/-! ## What a step keeps -/

/-- A property of the block that reset establishes, and that every access and every iteration of the core keeps, is kept
by every step. -/
theorem step_keeps_chip (P : Chip → Prop) (reset : P .reset) (access : ∀ c v c', c.Accessed v c' → P c → P c')
    (iteration : ∀ c c', c.Iterated (decodeMicroOp c.uop) c' → P c → P c') (s t : State) (hs : P s.chip)
    (h : step s = .next t) : P t.chip := by
  have port (tr : Transaction) (u : State) (hu : portAccess tr s.popEvent = .next u) : P u.chip := by
    obtain ⟨v, hv⟩ := portAccess_accessed tr s.popEvent u hu
    exact access s.chip v u.chip hv hs
  have core (hc : coreStep s.popEvent = .next t) : P t.chip := by
    unfold coreStep at hc
    split at hc
    · refine coreIterations_keeps (P ·.chip) (fun u u' hu he => ?_) _ s.popEvent t hs hc
      exact iteration u.chip u'.chip (exec_iterated _ u u' (decodeMicroOp_bitLength _) he) hu
    · cases hc
      exact hs
  obtain ⟨tr, ha⟩ | ⟨tr, s', h', ha, rfl⟩ | ⟨-, hc⟩ | ⟨-, rfl⟩ | ⟨h', rfl⟩ | rfl | rfl := step_cases s t h
  · exact port tr t ha
  · exact port tr s' ha
  · exact core hc
  · exact reset
  all_goals exact hs

/-! ## The sequencer's invariants -/

section SequencerOk
variable {c : Chip}

theorem Chip.SequencerOk.mode_of_idle (h : c.SequencerOk) (idle : c.busy = false) : c.mode = .idle := by
  obtain ⟨ha, -, -, -⟩ := h
  by_contra hm
  exact absurd (ha.mpr hm) (by simp [idle])

theorem Chip.sequencerOk_reset : Chip.reset.SequencerOk := by
  refine ⟨by decide, fun _ => rfl, fun h => absurd rfl h, by decide⟩

theorem Chip.sequencerOk_complete : c.complete.SequencerOk := by
  refine ⟨?_, fun _ => rfl, fun h => absurd rfl h, ?_⟩ <;> simp

theorem Chip.sequencerOk_start {m : Mode} (hm : m ≠ .idle) (st : m ≠ .expand → c.st.isSome = true) :
    (c.start m).SequencerOk := by
  refine ⟨iff_of_true rfl hm, fun h => absurd h hm, fun _ => Nat.zero_le 9, ?_⟩
  rintro (rfl | rfl) <;> exact st (by decide)

/-- The only RND + 1 that leaves 0..9 is that of iteration 9, which completes instead. -/
theorem toNat_add_one_of_le_eight {r : BitVec 4} (h : r.toNat ≤ 8) : (r + 1).toNat = r.toNat + 1 := by
  bv_omega

theorem Chip.SequencerOk.setRnd_add_one (h : c.SequencerOk) {r : BitVec 4} (hm : c.mode ≠ .idle) (hr : r.toNat ≤ 8) :
    (c.setRnd (r + 1)).SequencerOk := by
  obtain ⟨ha, -, -, hd⟩ := h
  refine ⟨ha, fun hi => absurd hi hm, fun _ => ?_, hd⟩
  rw [Chip.setRnd_rnd, toNat_add_one_of_le_eight hr]
  omega

theorem Chip.SequencerOk.storeRoundKey (h : c.SequencerOk) (j : Fin 10) (v : Block) : (c.storeRoundKey j v).SequencerOk := h

theorem Chip.SequencerOk.storeSt (h : c.SequencerOk) (v : Block) : (c.storeSt v).SequencerOk := by
  obtain ⟨ha, hb, hc, -⟩ := h
  exact ⟨ha, hb, hc, fun _ => rfl⟩

/-- The invariants speak of BUSY, MODE, RND and ST alone. -/
theorem Chip.SequencerOk.of_eq {c' : Chip} (h : c.SequencerOk) (hb : c'.busy = c.busy) (hm : c'.mode = c.mode)
    (hr : c'.rnd = c.rnd) (hst : c'.st = c.st) : c'.SequencerOk := by
  unfold Chip.SequencerOk
  rwa [hb, hm, hr, hst]

theorem Chip.SequencerOk.accessed {v : HostWord} {c' : Chip} (h : c.SequencerOk) (ha : c.Accessed v c') :
    c'.SequencerOk := by
  cases ha with
  | unchanged => exact h
  | cleared => exact h
  | rejected => exact h.of_eq (by simp) (by simp) (by simp) (by simp)
  | expandStarted => exact Chip.sequencerOk_start (by decide) (by simp)
  | cipherStarted _ cipher => exact Chip.sequencerOk_start (by rintro rfl; simp at cipher) fun _ => rfl
  | stored => exact h.of_eq (by simp) (by simp) (by simp) (by simp)

/-- A micro-operation that performs an iteration belongs to a mode that runs. -/
theorem mode_ne_idle_of_microOpMode {m : Mode} {i : Instr} (h : microOpMode? i = some m) : m ≠ .idle := by
  rintro rfl
  cases i <;> cases h

theorem Chip.SequencerOk.iterated {c' : Chip} (h : c.SequencerOk) (hi : c.Iterated (decodeMicroOp c.uop) c') :
    c'.SequencerOk := by
  have running {m : Mode} (hm : microOpMode? (decodeMicroOp c.uop) = some m) : c.mode ≠ .idle := by
    rw [decodeMicroOp_uop_mode hm]
    exact mode_ne_idle_of_microOpMode hm
  cases hi with
  | unchanged => exact h
  | expandRound mode _ h8 => exact (h.storeRoundKey _ _).setRnd_add_one (running mode) h8
  | cipherRound mode _ _ h8 => exact (h.storeSt _).setRnd_add_one (running mode) h8
  | expandDone | cipherDone => exact Chip.sequencerOk_complete

end SequencerOk

/-- Settles O39: an access of a busy block cannot touch the sequencer, an acceptance starts it at RND = 0, and an iteration
moves RND on within 0..9 or completes. -/
theorem stepKeepsSequencerInvariant : Obligations.StepKeepsSequencerInvariant :=
  step_keeps_chip Chip.SequencerOk Chip.sequencerOk_reset (fun _ _ _ ha hc => hc.accessed ha)
    fun _ _ hi hc => hc.iterated hi

/-! ## The meaning of KSV -/

theorem expandKey128_getElem (k : Block) (j : Fin 10) : (expandKey128 k)[j.val] = roundKey k j.val := by
  fin_cases j <;> rfl

section ScheduleOk
variable {c : Chip} {k v : Block} {i j : Fin 10}

theorem Chip.HoldsRoundKey.roundKey? (h : c.HoldsRoundKey k j) : c.roundKey? j = some (roundKey k j.val) := by
  unfold Chip.HoldsRoundKey at h
  rw [Chip.roundKey?, h, Reg.block?_ofBlock, expandKey128_getElem]

/-- The recurrence of 41_key_expansion R113, read from a block whose earlier round keys are those of KEY. -/
theorem Chip.nextRoundKey_of_held (hk : c.key.block? = some k) (held : ∀ i : Fin 10, i.val < j.val → c.HoldsRoundKey k i)
    (source : c.expandSource? j = some v) : nextRoundKey v (rcon (j.val + 1)) = (expandKey128 k)[j.val] := by
  rw [expandKey128_getElem]
  match j with
  | ⟨0, _⟩ =>
    cases hk.symm.trans source
    rfl
  | ⟨n + 1, hn⟩ =>
    cases (held ⟨n, by omega⟩ n.lt_succ_self).roundKey?.symm.trans source
    rfl

/-- Storing a round key of KEY's own schedule keeps those already there, and adds one. -/
theorem Chip.holdsRoundKey_storeRoundKey (hv : v = (expandKey128 k)[j.val]) (h : i ≠ j → c.HoldsRoundKey k i) :
    (c.storeRoundKey j v).HoldsRoundKey k i := by
  subst hv
  unfold Chip.HoldsRoundKey
  rw [Chip.storeRoundKey_rk, Vector.getElem_set]
  split
  · next hij =>
    cases Fin.ext hij
    rfl
  · next hij => exact h fun e => hij (congrArg Fin.val e.symm)

/-- The statement speaks of KEY, RK, KSV, MODE and RND alone, and of MODE and RND only during an EXPAND. -/
theorem Chip.ScheduleOk.of_eq {c' : Chip} (h : c.ScheduleOk) (hkey : c'.key = c.key) (hrk : c'.rk = c.rk)
    (hksv : c'.ksv = c.ksv) (hmode : c'.mode = .expand → c.mode = .expand ∧ c'.rnd = c.rnd) : c'.ScheduleOk := by
  obtain ⟨valid, running⟩ := h
  unfold Chip.ScheduleOk Chip.HoldsRoundKey
  rw [hkey, hrk, hksv]
  refine ⟨valid, fun hm => ?_⟩
  obtain ⟨hm, hr⟩ := hmode hm
  rw [hr]
  exact running hm

/-- With KSV = 0 and no EXPAND running nothing is said of RK. -/
theorem Chip.scheduleOk_of_ksv_false (hksv : c.ksv = false) (hmode : c.mode ≠ .expand) : c.ScheduleOk :=
  ⟨fun h => absurd h (by simp [hksv]), fun h => absurd h hmode⟩

theorem Chip.scheduleOk_reset : Chip.reset.ScheduleOk := Chip.scheduleOk_of_ksv_false rfl (by decide)

/-- An EXPAND that starts has written no round key yet. -/
theorem Chip.ScheduleOk.start_expand (h : c.ScheduleOk) (hk : c.key.isWritten = true) : (c.start .expand).ScheduleOk := by
  obtain ⟨valid, -⟩ := h
  obtain ⟨k, hk⟩ := Option.isSome_iff_exists.mp hk
  exact ⟨valid, fun _ => ⟨k, hk, fun _ hj => absurd hj (Nat.not_lt_zero _)⟩⟩

/-- A stored KEY or RK word clears KSV, and any other store leaves KEY, RK and KSV as they are (44_host_access R140). -/
theorem Chip.ScheduleOk.writeWord (h : c.ScheduleOk) (hm : c.mode ≠ .expand) (x : HostWord) (l : Location) :
    (c.writeWord x l).ScheduleOk := by
  cases l with
  | key | rk => exact Chip.scheduleOk_of_ksv_false rfl hm
  | din | ctrl | status | unmapped | dout => exact h.of_eq rfl rfl rfl fun hm' => absurd hm' hm

theorem Chip.ScheduleOk.accessed {x : HostWord} {c' : Chip} (hs : c.SequencerOk) (h : c.ScheduleOk)
    (ha : c.Accessed x c') : c'.ScheduleOk := by
  cases ha with
  | unchanged => exact h
  | cleared => exact h
  | rejected => exact h.of_eq (by simp) (by simp) (by simp) (by simp)
  | expandStarted _ hk => exact h.start_expand hk
  | cipherStarted _ cipher => exact h.of_eq rfl rfl rfl (by rintro rfl; simp at cipher)
  | stored idle => exact h.writeWord (by simp [hs.mode_of_idle idle]) _ _

/-- An iteration of a running EXPAND writes the next round key of KEY's schedule, over the same value where KSV = 1. -/
theorem Chip.ScheduleOk.storeRoundKey_next (h : c.ScheduleOk) (hm : c.mode = .expand) (hj : c.rnd.toNat = j.val)
    (source : c.expandSource? j = some v) :
    ∃ k, c.key.block? = some k ∧
      (∀ i : Fin 10, i.val ≤ j.val → (c.storeRoundKey j (nextRoundKey v (rcon (j.val + 1)))).HoldsRoundKey k i) ∧
      (c.ksv = true → ∀ i, (c.storeRoundKey j (nextRoundKey v (rcon (j.val + 1)))).HoldsRoundKey k i) := by
  obtain ⟨valid, running⟩ := h
  obtain ⟨k, hk, held⟩ := running hm
  rw [hj] at held
  have next := Chip.nextRoundKey_of_held hk held source
  refine ⟨k, hk, fun i hi => ?_, fun hksv i => ?_⟩
  · exact Chip.holdsRoundKey_storeRoundKey next fun hij => held i (lt_of_le_of_ne hi (Fin.val_ne_of_ne hij))
  · obtain ⟨k', hk', all⟩ := valid hksv
    cases hk.symm.trans hk'
    exact Chip.holdsRoundKey_storeRoundKey next fun _ => all i

theorem Chip.ScheduleOk.iterated {c' : Chip} (h : c.ScheduleOk) (hi : c.Iterated (decodeMicroOp c.uop) c') :
    c'.ScheduleOk := by
  cases hi with
  | unchanged => exact h
  | @expandRound r p mode iteration h8 source =>
    have hm := decodeMicroOp_uop_mode mode
    obtain ⟨k, hk, held, all⟩ := h.storeRoundKey_next hm (decodeMicroOp_uop_iteration iteration) source
    refine ⟨fun hksv => ⟨k, hk, all hksv⟩, fun _ => ⟨k, hk, fun i hi => held i ?_⟩⟩
    rw [Chip.setRnd_rnd, toNat_add_one_of_le_eight h8] at hi
    exact Nat.le_of_lt_succ hi
  | expandDone mode iteration source =>
    have hm := decodeMicroOp_uop_mode mode
    obtain ⟨k, hk, held, -⟩ := h.storeRoundKey_next hm (decodeMicroOp_uop_iteration iteration) source
    exact ⟨fun _ => ⟨k, hk, fun i => held i (Nat.le_of_lt_succ i.isLt)⟩, fun h => by cases h⟩
  | cipherRound mode cipher =>
    exact h.of_eq rfl rfl rfl fun hm => absurd ((decodeMicroOp_uop_mode mode).symm.trans hm) cipher
  | cipherDone => exact h.of_eq rfl rfl rfl fun hm => by cases hm

end ScheduleOk

/-- Settles O43, with the sequencer's invariants carried along: it is BUSY that keeps KEY and RK from being written to
while an EXPAND runs. -/
theorem stepKeepsScheduleValidity : Obligations.StepKeepsScheduleValidity := by
  intro s t hs hk h
  refine (step_keeps_chip (fun c => c.SequencerOk ∧ c.ScheduleOk) ⟨Chip.sequencerOk_reset, Chip.scheduleOk_reset⟩
    ?_ ?_ s t ⟨hs, hk⟩ h).2
  · exact fun c v c' ha ⟨hs, hk⟩ => ⟨hs.accessed ha, hk.accessed hs ha⟩
  · exact fun c c' hi ⟨hs, hk⟩ => ⟨hs.iterated hi, hk.iterated hi⟩

/-! ## ERR -/

section Err
variable {c c' : Chip}

theorem Chip.Iterated.err {i : Instr} (h : c.Iterated i c') : c'.err = c.err := by
  cases h <;> rfl

theorem Chip.ErrLegal.accessed {x : HostWord} (h : c.ErrLegal) (ha : c.Accessed x c') : c'.ErrLegal := by
  cases ha with
  | cleared => exact Nat.zero_le 2
  | rejected _ legal =>
    unfold Chip.ErrLegal
    rw [Chip.setError_err]
    split
    · rcases legal with rfl | rfl <;> decide
    · exact h
  | stored =>
    unfold Chip.ErrLegal
    rw [Chip.writeWord_err]
    exact h
  | unchanged | expandStarted | cipherStarted => exact h

/-- Rejection keeps a code that is there, so only CLEAR takes one away (60_exceptions R159). -/
theorem Chip.Accessed.err {x : HostWord} (ha : c.Accessed x c') (he : c.err ≠ 0) :
    c'.err = c.err ∨ (c'.err = 0 ∧ c.busy = false ∧ x = 0) := by
  cases ha with
  | cleared idle command => exact .inr ⟨rfl, idle, command⟩
  | rejected => exact .inl ((c.setError_err _).trans (if_neg he))
  | stored => exact .inl (by simp)
  | unchanged | expandStarted | cipherStarted => exact .inl rfl

end Err

/-- Settles O40: only a rejected command and a CLEAR write ERR, and each writes one of the three codes. -/
theorem stepKeepsErrLegal : Obligations.StepKeepsErrLegal :=
  step_keeps_chip Chip.ErrLegal (Nat.zero_le 2) (fun _ _ _ ha hc => hc.accessed ha) fun c c' hi hc => by
    unfold Chip.ErrLegal
    rwa [hi.err]

theorem locate_eq_ctrl_iff (off : BitVec 8) : locate off = .ctrl ↔ off.toNat < 4 := by
  unfold locate
  dsimp only
  split_ifs <;> simp <;> omega

/-- The only legal access of CTRL is at offset 0 (20_memory R44, R51). -/
theorem eq_zero_of_locate_ctrl {off : BitVec 8} {size : Nat} (hb : badAccess off size = false) (hl : locate off = .ctrl) :
    off = 0 ∧ size = 4 := by
  have hlt := (locate_eq_ctrl_iff off).mp hl
  simp only [badAccess, Bool.or_eq_false_iff, decide_eq_false_iff_not, not_not] at hb
  obtain ⟨⟨hsize, halign⟩, -⟩ := hb
  exact ⟨BitVec.eq_of_toNat_eq (by simp; omega), hsize⟩

theorem State.hostWrite_err_of_not_command (s : State) {off : BitVec 8} {size : Nat} (x : HostWord)
    (h : ¬(off = 0 ∧ size = 4)) : (s.hostWrite off size x).chip.err = s.chip.err := by
  cases hb : badAccess off size
  · obtain ⟨-, -, hw⟩ | ⟨-, hl, -⟩ | hw | ⟨-, hw⟩ := s.hostWrite_cases off size x
    · simp [hw]
    · exact absurd (eq_zero_of_locate_ctrl hb hl) h
    · simp [hw]
    · simp [hw]
  · simp [State.hostWrite, hb]

theorem State.ctrlWrite_err (s : State) {v : HostWord} (he : s.chip.err ≠ 0) (hv : v ≠ 0) :
    (s.ctrlWrite v).chip.err = s.chip.err :=
  ((s.accessed_ctrlWrite v).err he).resolve_right fun ⟨_, _, h⟩ => hv h

/-- Settles O16: every command but CLEAR is a CTRL write of a word that is not 0, and no other operation writes ERR. -/
theorem errorStaysUntilClear : Obligations.ErrorStaysUntilClear := by
  intro i s t h he
  cases i with
  | clear =>
    cases h
    exact ((s.accessed_ctrlWrite 0).err he).imp_right fun ⟨h0, hy, _⟩ => ⟨h0, hy, .inl rfl⟩
  | expand => cases h; exact .inl (s.ctrlWrite_err (v := 1) he (by decide))
  | encrypt => cases h; exact .inl (s.ctrlWrite_err (v := 2) he (by decide))
  | decrypt => cases h; exact .inl (s.ctrlWrite_err (v := 3) he (by decide))
  | illegalCmd => cases h; exact .inl (s.ctrlWrite_err (v := 4) he (by decide))
  | rsvdBits => cases h; exact .inl (s.ctrlWrite_err (v := 16) he (by decide))
  | rd32 off size => cases h; exact .inl (congrArg Chip.err (s.hostRead_chip off size))
  | wr32 off size x =>
    cases h
    by_cases ho : off = 0 ∧ size = 4
    · obtain ⟨rfl, rfl⟩ := ho
      exact ((s.accessed_hostWrite 0 4 x).err he).imp_right fun ⟨h0, hy, hx⟩ => ⟨h0, hy, .inr (by rw [hx])⟩
    · exact .inl (s.hostWrite_err_of_not_command x ho)
  | expFirst | expNext | expLast | encFirst | encMid | encLast | decFirst | decMid | decLast | unreachable | noStep =>
    exact .inl (exec_iterated _ s t rfl h).err

/-! ## FAULTS and REFUSED -/

/-- Every mark of `s` stands in `t` (10_state R37, R38). -/
def State.MarksKept (s t : State) : Prop :=
  (∀ f : Fault, s.faults.has f = true → t.faults.has f = true) ∧ (s.refused = true → t.refused = true)

section Marks
variable (s : State)

theorem State.marksKept_self : s.MarksKept s := ⟨fun _ h => h, id⟩

theorem State.MarksKept.trans {s t u : State} (h : s.MarksKept t) (h' : t.MarksKept u) : s.MarksKept u := by
  obtain ⟨hf, hr⟩ := h
  obtain ⟨hf', hr'⟩ := h'
  exact ⟨fun f => hf' f ∘ hf f, hr' ∘ hr⟩

theorem State.marksKept_of_insert {s t : State} (f : Fault) (hf : t.faults = s.faults.insert f)
    (hr : t.refused = s.refused) : s.MarksKept t := by
  refine ⟨fun g hg => ?_, fun h => hr.trans h⟩
  rw [hf, FaultSet.has_insert, hg, Bool.or_true]

theorem State.marksKept_refuse : s.MarksKept s.refuse := ⟨fun _ h => h, fun _ => rfl⟩

theorem State.marksKept_expandCommand : s.MarksKept s.expandCommand := by
  obtain ⟨-, h⟩ | ⟨-, h⟩ := s.expandCommand_cases <;> rw [h]
  · exact s.marksKept_self
  · exact marksKept_of_insert .unwritten rfl rfl

theorem State.marksKept_cipherCommand (m : Mode) : s.MarksKept (s.cipherCommand m) := by
  obtain ⟨_, -, -, -, h⟩ | ⟨-, h⟩ := s.cipherCommand_cases m <;> rw [h]
  · exact s.marksKept_self
  · exact marksKept_of_insert .unwritten rfl rfl

theorem State.marksKept_ctrlWrite (v : HostWord) : s.MarksKept (s.ctrlWrite v) := by
  obtain h | h | h | h | h | h | h := s.ctrlWrite_cases v <;> rw [h]
  · exact marksKept_of_insert .busy rfl rfl
  · exact s.marksKept_self
  · exact s.marksKept_self
  · exact s.marksKept_self
  · exact s.marksKept_expandCommand
  · exact s.marksKept_cipherCommand .encrypt
  · exact s.marksKept_cipherCommand .decrypt

theorem State.marksKept_hostRead (off : BitVec 8) (size : Nat) : s.MarksKept (s.hostRead off size) := by
  obtain ⟨_, h⟩ | h | h | h := s.hostRead_cases off size <;> rw [h]
  · exact s.marksKept_self
  · exact marksKept_of_insert .access rfl rfl
  · exact marksKept_of_insert .busy rfl rfl
  · exact marksKept_of_insert .unwritten rfl rfl

theorem State.marksKept_hostWrite (off : BitVec 8) (size : Nat) (x : HostWord) : s.MarksKept (s.hostWrite off size x) := by
  obtain ⟨-, -, h⟩ | ⟨-, -, h⟩ | h | ⟨-, h⟩ := s.hostWrite_cases off size x <;> rw [h]
  · exact s.marksKept_self
  · exact s.marksKept_ctrlWrite x
  · exact marksKept_of_insert .access rfl rfl
  · exact marksKept_of_insert .busy rfl rfl

theorem State.marksKept_iterate (o : Option Chip) : s.MarksKept (s.iterate o) := by
  cases o with
  | none => exact marksKept_of_insert .unwritten rfl rfl
  | some c => exact s.marksKept_self

end Marks

theorem exec_marksKept (i : Instr) (s t : State) (h : exec i s = .next t) : s.MarksKept t := by
  obtain ⟨v, rfl⟩ | ⟨off, size, rfl⟩ | ⟨off, size, x, rfl⟩ | ⟨o, rfl⟩ | rfl | rfl := exec_cases i s t h
  · exact s.marksKept_ctrlWrite v
  · exact s.marksKept_hostRead off size
  · exact s.marksKept_hostWrite off size x
  · exact s.marksKept_iterate o
  · exact s.marksKept_refuse
  · exact t.marksKept_self

theorem coreStep_marksKept (s t : State) (h : coreStep s = .next t) : s.MarksKept t := by
  unfold coreStep at h
  split at h
  · exact coreIterations_keeps s.MarksKept (fun u u' hu he => hu.trans (exec_marksKept _ u u' he)) _ s t s.marksKept_self h
  · exact exec_marksKept _ s t h

/-- Settles O34: an operation inserts a fault or sets REFUSED, and no other event writes either mark. -/
theorem marksAreNeverCleared : Obligations.MarksAreNeverCleared := by
  intro s t h
  obtain ⟨tr, ha⟩ | ⟨tr, s', h', ha, rfl⟩ | ⟨-, hc⟩ | ⟨-, rfl⟩ | ⟨h', rfl⟩ | rfl | rfl := step_cases s t h
  · exact exec_marksKept _ s.popEvent t ha
  · exact exec_marksKept _ s.popEvent s' ha
  · exact coreStep_marksKept s.popEvent t hc
  · exact s.marksKept_self
  · exact s.marksKept_self
  · exact s.marksKept_refuse
  · exact s.marksKept_self

/-! ## Accesses of STATUS, CTRL and the data words -/

/-- An answered read changes the response alone. -/
theorem State.changedTo_respondRead (s : State) (x : HostWord) : s.ChangedTo s.chip (s.respondRead x) :=
  ⟨rfl, rfl, rfl, rfl, rfl, rfl⟩

/-- A field of STATUS is read off its concatenation, which the widening to 32 bits leaves in place (10_state R34). -/
theorem Chip.statusWord_extract (c : Chip) {i n : Nat} (h : i + n ≤ 32) : c.statusWord.extractLsb' i n =
    (c.mode.bits ++ c.rnd ++ c.err ++ 0b00#2 ++ BitVec.ofBool c.ksv ++ BitVec.ofBool c.busy).extractLsb' i n :=
  BitVec.extractLsb'_setWidth_of_le h

/-- The fields of STATUS (10_state R34), each reached by dropping those below it. -/
theorem Chip.statusWord_fields (c : Chip) :
    c.statusWord.extractLsb' 0 1 = BitVec.ofBool c.busy ∧ c.statusWord.extractLsb' 1 1 = BitVec.ofBool c.ksv ∧
      c.statusWord.extractLsb' 2 2 = 0 ∧ c.statusWord.extractLsb' 4 4 = c.err ∧ c.statusWord.extractLsb' 8 4 = c.rnd ∧
      c.statusWord.extractLsb' 12 2 = c.mode.bits ∧ c.statusWord.extractLsb' 14 18 = 0 := by
  refine ⟨?_, ?_, ?_, ?_, ?_, ?_, ?_⟩
  · rw [c.statusWord_extract (by decide)]
    exact BitVec.extractLsb'_append_eq_right
  · rw [c.statusWord_extract (by decide)]
    rw [BitVec.extractLsb'_append_eq_of_le (by decide)]
    exact BitVec.extractLsb'_append_eq_right
  · rw [c.statusWord_extract (by decide)]
    iterate 2 rw [BitVec.extractLsb'_append_eq_of_le (by decide)]
    exact BitVec.extractLsb'_append_eq_right
  · rw [c.statusWord_extract (by decide)]
    iterate 3 rw [BitVec.extractLsb'_append_eq_of_le (by decide)]
    exact BitVec.extractLsb'_append_eq_right
  · rw [c.statusWord_extract (by decide)]
    iterate 4 rw [BitVec.extractLsb'_append_eq_of_le (by decide)]
    exact BitVec.extractLsb'_append_eq_right
  · rw [c.statusWord_extract (by decide)]
    iterate 4 rw [BitVec.extractLsb'_append_eq_of_le (by decide)]
    exact BitVec.extractLsb'_append_eq_left
  · ext i hi
    simp [Chip.statusWord]

/-- F_ACCESS leaves what a model fault leaves (60_exceptions R162). -/
theorem State.faultedTo_accessFault (s : State) : s.FaultedTo .access s.accessFault :=
  ⟨rfl, rfl, rfl, rfl, rfl, rfl, rfl⟩

theorem State.hostWrite_status (s : State) (x : HostWord) (idle : s.chip.busy = false) :
    s.hostWrite 4 4 x = s.accessFault := by
  have hl : locate 4 = .status := by decide
  have hb : badAccess 4 4 = false := by decide
  rw [State.hostWrite, hb, hl, idle]
  rfl

/-- Settles O24: the read answers with the STATUS word, whose fields are read off one by one. -/
theorem statusReadGivesFields : Obligations.StatusReadGivesFields := by
  intro s
  refine ⟨⟨s.respondRead s.chip.statusWord, s.chip.statusWord, congrArg _ s.hostRead_status, rfl,
    s.changedTo_respondRead _, s.chip.statusWord_fields⟩, fun idle x => ?_⟩
  exact ⟨s.accessFault, congrArg _ (s.hostWrite_status x idle), s.faultedTo_accessFault⟩

theorem State.hostRead_ctrl (s : State) (idle : s.chip.busy = false) : s.hostRead 0 4 = s.respondRead 0 := by
  have hl : locate 0 = .ctrl := by decide
  have hb : badAccess 0 4 = false := by decide
  rw [State.hostRead, hb, hl, idle]
  rfl

/-- Settles O25: CTRL has no value of its own, so a read of it answers 0. -/
theorem ctrlReadsZero : Obligations.CtrlReadsZero := fun s idle =>
  ⟨s.respondRead 0, congrArg _ (s.hostRead_ctrl idle), rfl, s.changedTo_respondRead 0⟩

/-- A legal write of a writable location of an idle block is answered with OK and stores the word alone. -/
theorem exec_wr32_of_writable (s : State) {off : BitVec 8} {l : Location} (x : HostWord) (idle : s.chip.busy = false)
    (hb : badAccess off 4 = false) (hl : locate off = l) (hw : l.isWritable = true) :
    ∃ t, exec (.wr32 off 4 x) s = .next t ∧ t.rsp = some ⟨none, false⟩ ∧ s.ChangedTo (s.chip.writeWord x l) t := by
  subst hl
  have hc : locate off ≠ .ctrl := fun h => by simp [h, Location.isWritable] at hw
  refine ⟨(s.withChip (s.chip.writeWord x (locate off))).respondWritten, congrArg Host.Outcome.next ?_,
    rfl, rfl, rfl, rfl, rfl, rfl, rfl⟩
  simp [State.hostWrite, hb, idle, hc, hw]

/-- The offsets of the words that a host writes, all of them legal (20_memory R44, R45). -/
theorem locate_key (k : Fin 4) :
    locate (BitVec.ofNat 8 (0x10 + 4 * k.val)) = .key k ∧ badAccess (BitVec.ofNat 8 (0x10 + 4 * k.val)) 4 = false := by
  decide +revert

theorem locate_din (k : Fin 4) :
    locate (BitVec.ofNat 8 (0x20 + 4 * k.val)) = .din k ∧ badAccess (BitVec.ofNat 8 (0x20 + 4 * k.val)) 4 = false := by
  decide +revert

theorem locate_rk (j : Fin 10) (k : Fin 4) :
    locate (BitVec.ofNat 8 (0x40 + 0x10 * j.val + 4 * k.val)) = .rk j k ∧
      badAccess (BitVec.ofNat 8 (0x40 + 0x10 * j.val + 4 * k.val)) 4 = false := by
  decide +revert

/-- Settles O27: each offset names its word, and a write there is the store of that word. -/
theorem dataWordWriteStoresWord : Obligations.DataWordWriteStoresWord := by
  intro s k x idle
  refine ⟨?_, ?_, fun j => ?_⟩
  · obtain ⟨hl, hb⟩ := locate_key k
    exact exec_wr32_of_writable s x idle hb hl rfl
  · obtain ⟨hl, hb⟩ := locate_din k
    exact exec_wr32_of_writable s x idle hb hl rfl
  · obtain ⟨hl, hb⟩ := locate_rk j k
    exact exec_wr32_of_writable s x idle hb hl rfl

/-! ## Core events -/

theorem step_of_core (s : State) (he : s.nextEvent = .core) : step s = coreStep s.popEvent := by
  simp [step, runEvent, he]

/-- One iteration is one operation, whatever its outcome. -/
theorem coreIterations_one (s : State) : coreIterations 1 s = exec (decodeMicroOp s.chip.uop) s := by
  unfold coreIterations
  cases exec (decodeMicroOp s.chip.uop) s <;> rfl

/-- Settles O6: with one iteration a core step the loop runs once, also where RND is 10 or more. -/
theorem stepRunsSelectedMicroOp : Obligations.StepRunsSelectedMicroOp := by
  intro s he busy hu
  have hn : s.popEvent.stepIterations = 1 := by
    have hu' : (if s.popEvent.chip.mode = .expand then s.popEvent.params.uExp else s.popEvent.params.uSeq) = 1 := hu
    unfold State.stepIterations
    rw [hu']
    omega
  have hb : s.popEvent.chip.busy = true := busy
  rw [step_of_core s he, coreStep, if_pos hb, hn, coreIterations_one, State.popEvent_chip]

theorem decodeRound_of_ten_le {mode : BitVec 2} {rnd : BitVec 4} (first : Instr) (mid : BitVec 4 → Instr) (last : Instr)
    (h : 10 ≤ rnd.toNat) : decodeRound mode rnd first mid last = .unreachable mode rnd := by
  have h0 : rnd ≠ 0 := by rintro rfl; simp at h
  have h9 : rnd ≠ 9 := by rintro rfl; simp at h
  rw [decodeRound, if_neg h0, if_neg (by omega), if_neg h9]

/-- Settles O22: such a MODE and RND select the unreachable word of their own mode. -/
theorem unreachableWordsAreRefused : Obligations.UnreachableWordsAreRefused := by
  intro s
  refine ⟨fun _ _ => rfl, fun hm hr => ?_⟩
  rw [decodeMicroOp_uop]
  split
  · contradiction
  all_goals
    rw [decodeRound_of_ten_le _ _ _ hr]
    rfl

/-- Settles O23: an idle block's core event is NO_STEP. -/
theorem idleCoreHasNoStep : Obligations.IdleCoreHasNoStep := by
  refine ⟨fun _ _ => rfl, fun s he idle => ?_⟩
  have hb : ¬s.popEvent.chip.busy = true := by simp [idle]
  rw [step_of_core s he, coreStep, if_neg hb]
  rfl

/-! ## Reset -/

theorem step_of_reset (s : State) (he : s.nextEvent = .reset) : step s = .next s.popEvent.resetEvent := by
  simp [step, runEvent, he]

/-- Settles O37: the reset event is the reset of the block and of nothing else. -/
theorem resetEventForcesReset : Obligations.ResetEventForcesReset := fun s he =>
  ⟨s.popEvent.resetEvent, step_of_reset s he, rfl, rfl, rfl⟩

/-- With no command in progress no operand is asked for. -/
theorem Chip.operandsHeld_of_idle {c : Chip} (h : c.mode = .idle) : c.OperandsHeld := by
  refine ⟨fun hm => absurd h hm, fun hm => ?_, ?_⟩
  · cases h.symm.trans hm
  · rintro (hm | hm) <;> cases h.symm.trans hm

/-- Settles O38: the block at reset is idle, with ERR and KSV 0. -/
theorem resetMeetsInvariants : Obligations.ResetMeetsInvariants :=
  ⟨Chip.sequencerOk_reset, Nat.zero_le 2, Chip.operandsHeld_of_idle rfl, Chip.scheduleOk_reset⟩

end Sys2Proof.Machine

/-! The statements of 20_memory: which register each offset names, what a read and a write of it do at an idle block, and
the order of an access's checks (20_memory R44 to R57, 60_exceptions R165). -/

namespace Sys2Proof.Machine

/-! ## Host words -/

/-- Settles O31: unpacking is by definition the four places, and it undoes packing. -/
theorem hostWordPacking : Obligations.HostWordPacking := by
  refine ⟨fun w => ?_, fun x => ⟨rfl, rfl, rfl, rfl, packWord_unpackWord x⟩⟩
  have h := unpackWord_packWord w
  exact ⟨congrArg ByteWord.a0 h, congrArg ByteWord.a1 h, congrArg ByteWord.a2 h, congrArg ByteWord.a3 h⟩

/-! ## The register at an offset -/

section Offsets
variable {off : BitVec 8} {size : Nat}

theorem locate_eq_status_iff : locate off = .status ↔ 4 ≤ off.toNat ∧ off.toNat < 8 := by
  unfold locate
  dsimp only
  split_ifs <;> simp <;> omega

theorem locate_eq_unmapped_iff : locate off = .unmapped ↔ (8 ≤ off.toNat ∧ off.toNat < 0x10) ∨ 0xE0 ≤ off.toNat := by
  unfold locate
  dsimp only
  split_ifs <;> simp <;> omega

theorem locate_of_dout_range (h : 0x30 ≤ off.toNat) (h' : off.toNat < 0x40) :
    locate off = .dout ⟨off.toNat % 16 / 4, by omega⟩ := by
  unfold locate
  dsimp only
  iterate 5 rw [if_neg (by omega)]
  rw [if_pos h']

theorem locate_of_rk_range (h : 0x40 ≤ off.toNat) (h' : off.toNat < 0xE0) :
    locate off = .rk ⟨(off.toNat - 0x40) / 16, by omega⟩ ⟨off.toNat % 16 / 4, by omega⟩ := by
  unfold locate
  dsimp only
  iterate 6 rw [if_neg (by omega)]
  rw [dif_pos h']

theorem locate_dout (k : Fin 4) :
    locate (BitVec.ofNat 8 (0x30 + 4 * k.val)) = .dout k ∧ badAccess (BitVec.ofNat 8 (0x30 + 4 * k.val)) 4 = false := by
  decide +revert

/-- STATUS and DOUT are the mapped locations a host may not write, CTRL apart (20_memory R44). -/
theorem locate_of_readOnly (h : off = 0x04 ∨ (0x30 ≤ off.toNat ∧ off.toNat < 0x40)) :
    locate off ≠ .ctrl ∧ (locate off).isWritable = false := by
  obtain rfl | ⟨h, h'⟩ := h
  · decide
  · simp [locate_of_dout_range h h', Location.isWritable]

theorem badAccess_eq_false_iff :
    badAccess off size = false ↔ size = 4 ∧ off.toNat % 4 = 0 ∧ locate off ≠ .unmapped := by
  simp [badAccess, and_assoc]

/-- The first check of an access, by the offsets the spec names: of the aligned ones below 0xE0 only 0x08 and 0x0C are
unmapped (20_memory R44, R51). -/
theorem badAccess_iff : badAccess off size = true ↔
    size ≠ 4 ∨ off.toNat % 4 ≠ 0 ∨ off = 0x08 ∨ off = 0x0C ∨ 0xE0 ≤ off.toNat := by
  have h8 : off = 0x08 ↔ off.toNat = 8 := BitVec.toNat_inj.symm
  have hC : off = 0x0C ↔ off.toNat = 12 := BitVec.toNat_inj.symm
  simp only [badAccess, Bool.or_eq_true, decide_eq_true_eq, locate_eq_unmapped_iff, h8, hC]
  omega

/-- The only legal access of STATUS is at offset 4 (20_memory R44, R51). -/
theorem eq_four_of_locate_status (hb : badAccess off size = false) (hl : locate off = .status) : off = 0x04 := by
  obtain ⟨-, halign, -⟩ := badAccess_eq_false_iff.mp hb
  obtain ⟨h, h'⟩ := locate_eq_status_iff.mp hl
  exact BitVec.eq_of_toNat_eq (by simp; omega)

end Offsets

/-- Settles O30: the word index needs no alignment, since 0x40 is a multiple of 16. -/
theorem roundKeyWordOffsets : Obligations.RoundKeyWordOffsets := by
  refine ⟨fun j k => (locate_rk j k).1, fun off h h' _ => ?_⟩
  exact ⟨_, _, locate_of_rk_range h (by omega), rfl, by dsimp only; omega⟩

/-! ## The data words after a store -/

section DataWords
variable (c : Chip) (x : HostWord)

theorem Chip.dataWord?_writeWord_same {l : Location} (hw : l.isWritable = true) :
    (c.writeWord x l).dataWord? l = some (some x) := by
  cases l with
  | key k | din k | rk j k => simp [Chip.writeWord, Chip.dataWord?]
  | ctrl | status | unmapped | dout k => cases hw

/-- Two words of one register are at different indices, so that a store of the one leaves the other. -/
theorem Reg.getElem_set_of_ne (r : Reg) (o : Option HostWord) {k k' : Fin 4} (h : k' ≠ k) :
    (r.set k.val o k.isLt)[k'.val]'k'.isLt = r[k'.val]'k'.isLt :=
  Vector.getElem_set_ne k.isLt k'.isLt fun e => h (Fin.ext e.symm)

theorem Chip.dataWord?_writeWord_of_ne {l l' : Location} (h : l' ≠ l) :
    (c.writeWord x l).dataWord? l' = c.dataWord? l' := by
  cases l with
  | ctrl | status | unmapped | dout k => rfl
  | key k =>
    cases l' with
    | key k' => exact congrArg some (Reg.getElem_set_of_ne _ _ fun e => h (e ▸ rfl))
    | ctrl | status | unmapped | din k' | dout k' | rk j' k' => rfl
  | din k =>
    cases l' with
    | din k' => exact congrArg some (Reg.getElem_set_of_ne _ _ fun e => h (e ▸ rfl))
    | ctrl | status | unmapped | key k' | dout k' | rk j' k' => rfl
  | rk j k =>
    cases l' with
    | rk j' k' =>
      refine congrArg some ?_
      by_cases hj : j' = j
      · subst hj
        simp only [Chip.writeWord, Vector.getElem_set_self]
        exact Reg.getElem_set_of_ne _ _ fun e => h (e ▸ rfl)
      · have hj' : j.val ≠ j'.val := fun e => hj (Fin.ext e.symm)
        simp only [Chip.writeWord, Vector.getElem_set_ne _ _ hj']
    | ctrl | status | unmapped | key k' | din k' | dout k' => rfl

/-- Only a KEY or RK word clears KSV (44_host_access R140). -/
theorem Chip.writeWord_ksv_of_ne {l : Location} (hk : ∀ k, l ≠ .key k) (hr : ∀ j k, l ≠ .rk j k) :
    (c.writeWord x l).ksv = c.ksv := by
  cases l with
  | key k => exact absurd rfl (hk k)
  | rk j k => exact absurd rfl (hr j k)
  | ctrl | status | unmapped | din k | dout k => rfl

end DataWords

/-! ## Reads, and the checks before them -/

section Checks
variable (s : State) {off : BitVec 8} {size : Nat} (x : HostWord)

theorem State.faultedTo_busyFault : s.FaultedTo .busy s.busyFault := ⟨rfl, rfl, rfl, rfl, rfl, rfl, rfl⟩

theorem State.faultedTo_unwrittenFault : s.FaultedTo .unwritten s.unwrittenFault := ⟨rfl, rfl, rfl, rfl, rfl, rfl, rfl⟩

theorem State.hostRead_of_bad (hb : badAccess off size = true) : s.hostRead off size = s.accessFault := if_pos hb

theorem State.hostWrite_of_bad (hb : badAccess off size = true) : s.hostWrite off size x = s.accessFault := if_pos hb

theorem State.hostRead_of_busy (hb : badAccess off size = false) (busy : s.chip.busy = true)
    (hl : locate off ≠ .status) : s.hostRead off size = s.busyFault := by
  simp [State.hostRead, hb, busy, hl]

theorem State.hostWrite_of_busy (hb : badAccess off size = false) (busy : s.chip.busy = true) :
    s.hostWrite off size x = s.busyFault := by
  simp [State.hostWrite, hb, busy]

theorem State.hostWrite_of_readOnly (hb : badAccess off size = false) (idle : s.chip.busy = false)
    (hc : locate off ≠ .ctrl) (hw : (locate off).isWritable = false) : s.hostWrite off size x = s.accessFault := by
  simp [State.hostWrite, hb, idle, hc, hw]

/-- A legal read of a data word of an idle block is answered with what the word holds. -/
theorem State.hostRead_of_dataWord {o : Option HostWord} (hb : badAccess off size = false) (idle : s.chip.busy = false)
    (hd : s.chip.dataWord? (locate off) = some o) : s.hostRead off size = s.readWord o := by
  unfold State.hostRead
  rw [hb, idle]
  cases hl : locate off with rw [hl] at hd
  | ctrl | status | unmapped => cases hd
  | key k | din k | dout k | rk j k =>
    cases hd
    rfl

theorem exec_rd32_of_written (hb : badAccess off size = false) (idle : s.chip.busy = false)
    (hd : s.chip.dataWord? (locate off) = some (some x)) :
    ∃ t, exec (.rd32 off size) s = .next t ∧ t.rsp = some ⟨some x, false⟩ ∧ s.ChangedTo s.chip t :=
  ⟨s.respondRead x, congrArg _ (s.hostRead_of_dataWord hb idle hd), rfl, s.changedTo_respondRead x⟩

end Checks

/-- Settles O26: each offset names its data word, and the read answers with the word's value. -/
theorem dataWordReadReturnsValue : Obligations.DataWordReadReturnsValue := by
  intro s k x idle
  have read {off : BitVec 8} {l : Location} (hl : locate off = l ∧ badAccess off 4 = false)
      (hd : s.chip.dataWord? l = some (some x)) :
      ∃ t, exec (.rd32 off 4) s = .next t ∧ t.rsp = some ⟨some x, false⟩ ∧ s.ChangedTo s.chip t :=
    exec_rd32_of_written s x hl.2 idle (hl.1 ▸ hd)
  exact ⟨fun h => read (locate_key k) (congrArg some h), fun h => read (locate_din k) (congrArg some h),
    fun h => read (locate_dout k) (congrArg some h), fun j h => read (locate_rk j k) (congrArg some h)⟩

/-- Settles O28: the store leaves the block idle, and the word at the offset then holds what was written. -/
theorem readAfterWriteReturnsValue : Obligations.ReadAfterWriteReturnsValue := by
  intro s off x idle halign hw
  have hb : badAccess off 4 = false :=
    badAccess_eq_false_iff.mpr ⟨rfl, halign, fun h => by simp [h, Location.isWritable] at hw⟩
  obtain ⟨t, ht, -, hc, -⟩ := exec_wr32_of_writable s x idle hb rfl hw
  have idle' : t.chip.busy = false := by rw [hc, Chip.writeWord_busy, idle]
  have hd : t.chip.dataWord? (locate off) = some (some x) := by rw [hc, Chip.dataWord?_writeWord_same _ _ hw]
  obtain ⟨u, hu, hr, -⟩ := exec_rd32_of_written t x hb idle' hd
  exact ⟨t, u, ht, hu, hr⟩

/-- Settles O32: the first check is `badAccess`, and each later one is met only where those before it hold. -/
theorem accessChecksInOrder : Obligations.AccessChecksInOrder := by
  intro s off size x
  dsimp only
  rw [← badAccess_iff, Bool.not_eq_true]
  refine ⟨fun hb => ⟨?_, ?_⟩, fun hb busy => ⟨fun ho => ?_, ?_⟩, fun hb idle ho => ?_, fun hb idle hd => ?_⟩
  · exact ⟨s.accessFault, congrArg _ (s.hostRead_of_bad hb), s.faultedTo_accessFault⟩
  · exact ⟨s.accessFault, congrArg _ (s.hostWrite_of_bad x hb), s.faultedTo_accessFault⟩
  · have hl : locate off ≠ .status := fun h => ho (eq_four_of_locate_status hb h)
    exact ⟨s.busyFault, congrArg _ (s.hostRead_of_busy hb busy hl), s.faultedTo_busyFault⟩
  · exact ⟨s.busyFault, congrArg _ (s.hostWrite_of_busy x hb busy), s.faultedTo_busyFault⟩
  · obtain ⟨hc, hw⟩ := locate_of_readOnly ho
    exact ⟨s.accessFault, congrArg _ (s.hostWrite_of_readOnly x hb idle hc hw), s.faultedTo_accessFault⟩
  · exact ⟨s.unwrittenFault, congrArg _ (s.hostRead_of_dataWord hb idle hd), s.faultedTo_unwrittenFault⟩

/-! ## The frame of a write -/

/-- The host's registers and KSV stay as they are: a command at CTRL writes none of them (44_host_access R141 to R145). -/
def Chip.RegistersKept (c c' : Chip) : Prop :=
  c'.key = c.key ∧ c'.rk = c.rk ∧ c'.din = c.din ∧ c'.dout = c.dout ∧ c'.ksv = c.ksv

theorem Chip.RegistersKept.dataWord? {c c' : Chip} (h : c.RegistersKept c') (l : Location) :
    c'.dataWord? l = c.dataWord? l := by
  obtain ⟨hk, hr, hi, ho, -⟩ := h
  cases l <;> simp [Chip.dataWord?, hk, hr, hi, ho]

theorem State.registersKept_expandCommand (s : State) : s.chip.RegistersKept s.expandCommand.chip := by
  obtain ⟨-, h⟩ | ⟨-, h⟩ := s.expandCommand_cases <;> rw [h] <;> exact ⟨rfl, rfl, rfl, rfl, rfl⟩

theorem State.registersKept_cipherCommand (s : State) (m : Mode) : s.chip.RegistersKept (s.cipherCommand m).chip := by
  obtain ⟨_, -, -, -, h⟩ | ⟨-, h⟩ := s.cipherCommand_cases m <;> rw [h] <;> exact ⟨rfl, rfl, rfl, rfl, rfl⟩

theorem Chip.registersKept_setError (c : Chip) (code : BitVec 4) : c.RegistersKept (c.setError code) := by
  simp [Chip.RegistersKept]

theorem State.registersKept_ctrlWrite (s : State) (v : HostWord) : s.chip.RegistersKept (s.ctrlWrite v).chip := by
  obtain h | h | h | h | h | h | h := s.ctrlWrite_cases v <;> rw [h]
  · exact ⟨rfl, rfl, rfl, rfl, rfl⟩
  · exact s.chip.registersKept_setError errRsvdBits
  · exact s.chip.registersKept_setError errIllegalCmd
  · exact ⟨rfl, rfl, rfl, rfl, rfl⟩
  · exact s.registersKept_expandCommand
  · exact s.registersKept_cipherCommand .encrypt
  · exact s.registersKept_cipherCommand .decrypt

/-- `c.WriteFrame l c'`: what of `c` stands in `c'` after a write of the location `l` (44_host_access R140, R141). -/
def Chip.WriteFrame (c : Chip) (l : Location) (c' : Chip) : Prop :=
  (∀ l', l' ≠ l → c'.dataWord? l' = c.dataWord? l') ∧ c'.dout = c.dout ∧
    (l ≠ .ctrl → c'.mode = c.mode ∧ c'.rnd = c.rnd ∧ c'.busy = c.busy ∧ c'.err = c.err ∧ c'.st = c.st) ∧
    ((∀ k, l ≠ .key k) → (∀ j k, l ≠ .rk j k) → c'.ksv = c.ksv)

section WriteFrame
variable {c c' : Chip} {l : Location}

theorem Chip.writeFrame_self : c.WriteFrame l c :=
  ⟨fun _ _ => rfl, rfl, fun _ => ⟨rfl, rfl, rfl, rfl, rfl⟩, fun _ _ => rfl⟩

theorem Chip.writeFrame_writeWord (x : HostWord) : c.WriteFrame l (c.writeWord x l) :=
  ⟨fun _ => c.dataWord?_writeWord_of_ne x, c.writeWord_dout x l, fun _ => by simp, c.writeWord_ksv_of_ne x⟩

theorem Chip.RegistersKept.writeFrame_ctrl (h : c.RegistersKept c') : c.WriteFrame .ctrl c' := by
  have hd := h.dataWord?
  obtain ⟨-, -, -, ho, hv⟩ := h
  exact ⟨fun l' _ => hd l', ho, fun hn => absurd rfl hn, fun _ _ => hv⟩

end WriteFrame

theorem State.writeFrame_hostWrite (s : State) (off : BitVec 8) (size : Nat) (x : HostWord) :
    s.chip.WriteFrame (locate off) (s.hostWrite off size x).chip := by
  obtain ⟨-, -, h⟩ | ⟨-, hl, h⟩ | h | ⟨-, h⟩ := s.hostWrite_cases off size x <;> rw [h]
  · exact Chip.writeFrame_writeWord x
  · rw [hl]
    exact (s.registersKept_ctrlWrite x).writeFrame_ctrl
  · exact Chip.writeFrame_self
  · exact Chip.writeFrame_self

/-- Settles O29: a write is a store, a command or a fault, and each keeps the frame of its location. -/
theorem hostWriteFrame : Obligations.HostWriteFrame := by
  intro s t off size x h
  cases h
  obtain ⟨hdata, hdout, hseq, hksv⟩ := s.writeFrame_hostWrite off size x
  exact ⟨hdata, hdout, hseq, hksv, s.sameAround_hostWrite off size x⟩

end Sys2Proof.Machine

/-! The statements of 30_encoding: decoding and encoding of the three kinds of word (30_encoding R69 to R79), the frame of
the cipher's iterations, and the step of an access, of a script line and of a WAIT (30_encoding R78, R81, R82). -/

namespace Sys2Proof.Machine

/-- `i` is a row of the opcode table, and `e` is its encoded word. -/
def IsRow (i : Instr) (e : Encoded) : Prop := WellFormed i ∧ encode i = e

/-! ## Command words -/

section Commands
variable {v : BitVec 32}

/-- A command word is its reserved bits and its code (30_encoding R68). -/
theorem rsvd_append_cmd (v : BitVec 32) : v.extractLsb' 4 28 ++ v.extractLsb' 0 4 = v :=
  BitVec.extractLsb'_append_extractLsb' (w := 28) (len := 4)

theorem rsvd_ne_zero_iff : v.extractLsb' 4 28 ≠ 0 ↔ 16 ≤ v.toNat := by
  have hv := v.isLt
  rw [Ne, ← BitVec.toNat_inj, BitVec.extractLsb'_toNat, Nat.shiftRight_eq_div_pow]
  change ¬_ = 0 ↔ _
  omega

theorem decodeCommand_of_rsvd (h : v.extractLsb' 4 28 ≠ 0) :
    decodeCommand v = .rsvdBits (v.extractLsb' 4 28) (v.extractLsb' 0 4) := if_pos h

theorem decodeCommand_of_code (hr : v.extractLsb' 4 28 = 0) (hc : 4 ≤ (v.extractLsb' 0 4).toNat) :
    decodeCommand v = .illegalCmd (v.extractLsb' 0 4) := by
  unfold decodeCommand
  dsimp only
  rw [if_neg (not_not.mpr hr), if_pos hc]

theorem decodeCommand_rsvdBits {rsvd : BitVec 28} (cmd : BitVec 4) (h : rsvd ≠ 0) :
    decodeCommand (rsvd ++ cmd) = .rsvdBits rsvd cmd := by
  have hr : (rsvd ++ cmd).extractLsb' 4 28 = rsvd := BitVec.extractLsb'_append_eq_left
  have hc : (rsvd ++ cmd).extractLsb' 0 4 = cmd := BitVec.extractLsb'_append_eq_right
  rw [decodeCommand_of_rsvd (by rwa [hr]), hr, hc]

theorem decodeCommand_illegalCmd {cmd : BitVec 4} (h : 4 ≤ cmd.toNat) :
    decodeCommand (0#28 ++ cmd) = .illegalCmd cmd := by
  have hr : (0#28 ++ cmd).extractLsb' 4 28 = 0#28 := BitVec.extractLsb'_append_eq_left
  have hc : (0#28 ++ cmd).extractLsb' 0 4 = cmd := BitVec.extractLsb'_append_eq_right
  rw [decodeCommand_of_code hr (by rwa [hc]), hc]

/-- A word is known from its reserved bits and its code. -/
theorem append_eq_of_fields {rsvd : BitVec 28} {cmd : BitVec 4} (hr : v.extractLsb' 4 28 = rsvd)
    (hc : v.extractLsb' 0 4 = cmd) : rsvd ++ cmd = v := by
  rw [← hr, ← hc, rsvd_append_cmd]

theorem isRow_decodeCommand (v : BitVec 32) : IsRow (decodeCommand v) (.command v) := by
  unfold decodeCommand
  dsimp only
  split_ifs with hr hi h0 h1 h2
  · exact ⟨decide_eq_true hr, congrArg _ (rsvd_append_cmd v)⟩
  all_goals have eq {cmd : BitVec 4} := append_eq_of_fields (cmd := cmd) (not_not.mp hr)
  · exact ⟨decide_eq_true hi, congrArg _ (eq rfl)⟩
  · exact ⟨rfl, congrArg _ (eq h0)⟩
  · exact ⟨rfl, congrArg _ (eq h1)⟩
  · exact ⟨rfl, congrArg _ (eq h2)⟩
  · have h3 : v.extractLsb' 0 4 = 3 := by bv_omega
    exact ⟨rfl, congrArg _ (eq h3)⟩

end Commands

/-- Settles O3: the reserved bits are nonzero from 16 on, and below it the word is its code. -/
theorem commandDecodingHasSixOutcomes : Obligations.CommandDecodingHasSixOutcomes := by
  intro v
  have word {n : Nat} (h : v.toNat = n) (hn : n < 2 ^ 32) : v = BitVec.ofNatLT n hn := BitVec.eq_of_toNat_eq h
  refine ⟨decodeCommand_of_rsvd, fun ⟨h4, h16⟩ => ?_, fun h => ?_, fun h => ?_, fun h => ?_, fun h => ?_, rsvd_ne_zero_iff⟩
  · have hr : v.extractLsb' 4 28 = 0 := not_not.mp (mt rsvd_ne_zero_iff.mp (Nat.not_le.mpr h16))
    refine decodeCommand_of_code hr ?_
    rw [BitVec.extractLsb'_toNat, Nat.shiftRight_zero, Nat.mod_eq_of_lt h16]
    exact h4
  all_goals
    rw [word h (by decide)]
    rfl

/-! ## Micro-operation words -/

section MicroOps
variable {mode : BitVec 2} {rnd : BitVec 4}

theorem midRound_iff : midRound rnd = true ↔ 1 ≤ rnd.toNat ∧ rnd.toNat ≤ 8 := by
  simp [midRound]

theorem decodeRound_mid (first : Instr) (mid : BitVec 4 → Instr) (last : Instr) (h : 1 ≤ rnd.toNat ∧ rnd.toNat ≤ 8) :
    decodeRound mode rnd first mid last = mid rnd := by
  obtain ⟨h1, h8⟩ := h
  have h0 : rnd ≠ 0 := by rintro rfl; simp at h1
  rw [decodeRound, if_neg h0, if_pos h8]

/-- The rows of the table by the two fields of the word (30_encoding R74, R75). -/
theorem decodeMicroOp_append (mode : BitVec 2) (rnd : BitVec 4) : decodeMicroOp (mode ++ rnd) =
    if mode = 0 then .noStep rnd
    else if mode = 1 then decodeRound mode rnd .expFirst .expNext .expLast
    else if mode = 2 then decodeRound mode rnd .encFirst .encMid .encLast
    else decodeRound mode rnd .decFirst .decMid .decLast := by
  unfold decodeMicroOp
  rw [BitVec.extractLsb'_append_eq_left, BitVec.extractLsb'_append_eq_right]

theorem decodeMicroOp_idle (rnd : BitVec 4) : decodeMicroOp (0b00#2 ++ rnd) = .noStep rnd :=
  decodeMicroOp_append _ _

theorem decodeMicroOp_expand (rnd : BitVec 4) :
    decodeMicroOp (0b01#2 ++ rnd) = decodeRound 0b01 rnd .expFirst .expNext .expLast := decodeMicroOp_append _ _

theorem decodeMicroOp_encrypt (rnd : BitVec 4) :
    decodeMicroOp (0b10#2 ++ rnd) = decodeRound 0b10 rnd .encFirst .encMid .encLast := decodeMicroOp_append _ _

theorem decodeMicroOp_decrypt (rnd : BitVec 4) :
    decodeMicroOp (0b11#2 ++ rnd) = decodeRound 0b11 rnd .decFirst .decMid .decLast := decodeMicroOp_append _ _

/-- The unreachable words are those of a mode that runs with RND in 10..15 (30_encoding R77). -/
theorem decodeMicroOp_unreachable (hm : mode ≠ 0) (hr : 10 ≤ rnd.toNat) :
    decodeMicroOp (mode ++ rnd) = .unreachable mode rnd := by
  rw [decodeMicroOp_append, if_neg hm]
  split_ifs <;> exact decodeRound_of_ten_le _ _ _ hr

/-- The rows of a running mode encode to its words, if its three micro-operations do. -/
theorem isRow_decodeRound {first : Instr} {mid : BitVec 4 → Instr} {last : Instr} (hm : mode ≠ 0)
    (hfirst : IsRow first (.microOp (mode ++ 0#4)))
    (hmid : midRound rnd = true → IsRow (mid rnd) (.microOp (mode ++ rnd)))
    (hlast : IsRow last (.microOp (mode ++ 9#4))) :
    IsRow (decodeRound mode rnd first mid last) (.microOp (mode ++ rnd)) := by
  unfold decodeRound
  split_ifs with h0 h8 h9
  · exact h0 ▸ hfirst
  · exact hmid (midRound_iff.mpr ⟨by bv_omega, h8⟩)
  · exact h9 ▸ hlast
  · have h10 : 10 ≤ rnd.toNat := by bv_omega
    exact ⟨Bool.and_eq_true_iff.mpr ⟨decide_eq_true hm, decide_eq_true h10⟩, rfl⟩

theorem isRow_decodeMicroOp_append (mode : BitVec 2) (rnd : BitVec 4) :
    IsRow (decodeMicroOp (mode ++ rnd)) (.microOp (mode ++ rnd)) := by
  rw [decodeMicroOp_append]
  split_ifs with h0 h1 h2
  · subst h0
    exact ⟨rfl, rfl⟩
  · subst h1
    exact isRow_decodeRound h0 ⟨rfl, rfl⟩ (fun hr => ⟨hr, rfl⟩) ⟨rfl, rfl⟩
  · subst h2
    exact isRow_decodeRound h0 ⟨rfl, rfl⟩ (fun hr => ⟨hr, rfl⟩) ⟨rfl, rfl⟩
  · obtain rfl : mode = 3 := by bv_omega
    exact isRow_decodeRound h0 ⟨rfl, rfl⟩ (fun hr => ⟨hr, rfl⟩) ⟨rfl, rfl⟩

theorem isRow_decodeMicroOp (u : BitVec 6) : IsRow (decodeMicroOp u) (.microOp u) := by
  have h : u.extractLsb' 4 2 ++ u.extractLsb' 0 4 = u := BitVec.extractLsb'_append_extractLsb' (w := 2) (len := 4)
  exact h ▸ isRow_decodeMicroOp_append _ _

end MicroOps

/-- Settles O4: each mode has its three micro-operations, and RND selects among them. -/
theorem microOpTableRows : Obligations.MicroOpTableRows := by
  intro r
  rw [decodeMicroOp_idle, decodeMicroOp_expand, decodeMicroOp_encrypt, decodeMicroOp_decrypt]
  refine ⟨rfl, fun h => ?_, fun h => ?_, fun h => ?_, fun h => ?_⟩
  · obtain rfl : r = 0 := BitVec.eq_of_toNat_eq h
    exact ⟨rfl, rfl, rfl⟩
  · exact ⟨decodeRound_mid _ _ _ h, decodeRound_mid _ _ _ h, decodeRound_mid _ _ _ h⟩
  · obtain rfl : r = 9 := BitVec.eq_of_toNat_eq h
    exact ⟨rfl, rfl, rfl⟩
  · exact ⟨decodeRound_of_ten_le _ _ _ h, decodeRound_of_ten_le _ _ _ h, decodeRound_of_ten_le _ _ _ h⟩

/-- Settles O5: eight closed words. -/
theorem specWordsDecode : Obligations.SpecWordsDecode := by
  unfold Obligations.SpecWordsDecode
  decide

/-! ## Transactions -/

/-- req_write of a direction (30_encoding R79). -/
def reqWrite : Dir → BitVec 1
  | .read => 0
  | .write => 1

/-- The request ports that present a transaction. -/
def portsOfTransaction (t : Transaction) : BitVec 44 := portsOf (reqWrite t.dir) t.off t.size t.wdata

theorem ofPorts_portsOf (write : BitVec 1) (off : BitVec 8) {size : Nat} (wdata : HostWord) (h : size < 8) :
    Transaction.ofPorts (portsOf write off size wdata) = ⟨if write = 1 then .write else .read, off, size, wdata⟩ := by
  have hwrite : (portsOf write off size wdata).extractLsb' 0 1 = write := BitVec.extractLsb'_append_eq_right
  have hoff : (portsOf write off size wdata).extractLsb' 1 8 = off := by
    rw [portsOf, BitVec.extractLsb'_append_eq_of_le (by decide)]
    exact BitVec.extractLsb'_append_eq_right
  have hsize : (portsOf write off size wdata).extractLsb' 9 3 = BitVec.ofNat 3 size := by
    rw [portsOf]
    iterate 2 rw [BitVec.extractLsb'_append_eq_of_le (by decide)]
    exact BitVec.extractLsb'_append_eq_right
  have hwdata : (portsOf write off size wdata).extractLsb' 12 32 = wdata := by
    rw [portsOf]
    iterate 2 rw [BitVec.extractLsb'_append_eq_of_le (by decide)]
    exact BitVec.extractLsb'_append_eq_left
  rw [Transaction.ofPorts, hwrite, hoff, hsize, hwdata, BitVec.toNat_ofNat, Nat.mod_eq_of_lt h]

theorem ofPorts_portsOfTransaction {t : Transaction} (h : t.size < 8) : Transaction.ofPorts (portsOfTransaction t) = t := by
  obtain ⟨dir, off, size, wdata⟩ := t
  rw [portsOfTransaction, ofPorts_portsOf _ _ _ h]
  cases dir <;> rfl

theorem reqWrite_dir (b : BitVec 1) : reqWrite (if b = 1 then .write else .read) = b := by
  split
  · next h => exact h.symm
  · next h => exact (BitVec.eq_zero_or_eq_one b).resolve_right h |>.symm

theorem portsOfTransaction_ofPorts (p : BitVec 44) : portsOfTransaction (.ofPorts p) = p := by
  rw [portsOfTransaction, Transaction.ofPorts, reqWrite_dir]
  dsimp only
  rw [portsOf, BitVec.ofNat_toNat, BitVec.setWidth_eq]
  rw [BitVec.extractLsb'_append_extractLsb'_eq_extractLsb' (show 12 = 9 + 3 from rfl),
    BitVec.extractLsb'_append_extractLsb'_eq_extractLsb' (show 9 = 1 + 8 from rfl),
    BitVec.extractLsb'_append_extractLsb'_eq_extractLsb' (show 1 = 0 + 1 from rfl)]
  exact BitVec.extractLsb'_eq_self

theorem legalAccess_iff {off : BitVec 8} {size : Nat} :
    legalAccess off size = true ↔ size = 4 ∧ off.toNat % 4 = 0 := by
  simp [legalAccess]

theorem decodeTransaction_write_of_ne {off : BitVec 8} (size : Nat) (wdata : HostWord) (h : off ≠ 0) :
    decodeTransaction ⟨.write, off, size, wdata⟩ = .wr32 off size wdata :=
  if_neg fun ⟨ho, _⟩ => h ho

/-- A legal transaction is a row of the table, but for a write of CTRL and for data presented with a read. -/
theorem isRow_decodeTransaction (t : Transaction) (hl : legalAccess t.off t.size = true)
    (hread : t.dir = .read → t.wdata = 0) (hwrite : t.dir = .write → t.off ≠ 0) :
    IsRow (decodeTransaction t) (.transaction (portsOfTransaction t)) := by
  obtain ⟨dir, off, size, wdata⟩ := t
  cases dir with
  | read =>
    obtain rfl : wdata = 0 := hread rfl
    exact ⟨hl, rfl⟩
  | write =>
    have ho : off ≠ 0 := hwrite rfl
    rw [decodeTransaction_write_of_ne _ _ ho]
    exact ⟨Bool.and_eq_true_iff.mpr ⟨hl, decide_eq_true ho⟩, rfl⟩

/-- The ports that present a legal transaction decode to its operation. -/
theorem decode_portsOfTransaction {t : Transaction} (hl : legalAccess t.off t.size = true) :
    decode (.transaction (portsOfTransaction t)) = decodeTransaction t := by
  obtain ⟨hsize, -⟩ := legalAccess_iff.mp hl
  exact congrArg decodeTransaction (ofPorts_portsOfTransaction (by omega))

/-! ## Decoding and encoding undo each other -/

/-- Settles O1: the fields are read back from the word of each kind. -/
theorem decodeUndoesEncode : Obligations.DecodeUndoesEncode := by
  intro i h
  cases i with
  | clear | expand | encrypt | decrypt => rfl
  | illegalCmd cmd => exact decodeCommand_illegalCmd (of_decide_eq_true h)
  | rsvdBits rsvd cmd => exact decodeCommand_rsvdBits cmd (of_decide_eq_true h)
  | expFirst | expLast | encFirst | encLast | decFirst | decLast => rfl
  | expNext r => exact (decodeMicroOp_expand r).trans (decodeRound_mid _ _ _ (midRound_iff.mp h))
  | encMid r => exact (decodeMicroOp_encrypt r).trans (decodeRound_mid _ _ _ (midRound_iff.mp h))
  | decMid r => exact (decodeMicroOp_decrypt r).trans (decodeRound_mid _ _ _ (midRound_iff.mp h))
  | unreachable mode rnd =>
    obtain ⟨hm, hr⟩ := Bool.and_eq_true_iff.mp h
    exact decodeMicroOp_unreachable (of_decide_eq_true hm) (of_decide_eq_true hr)
  | noStep rnd => exact decodeMicroOp_idle rnd
  | rd32 off size => exact decode_portsOfTransaction (t := ⟨.read, off, size, 0⟩) h
  | wr32 off size wdata =>
    obtain ⟨hl, ho⟩ := Bool.and_eq_true_iff.mp h
    exact (decode_portsOfTransaction (t := ⟨.write, off, size, wdata⟩) hl).trans
      (decodeTransaction_write_of_ne _ _ (of_decide_eq_true ho))

/-- Settles O2: each kind of word decodes to a row whose word it is. -/
theorem encodeUndoesDecode : Obligations.EncodeUndoesDecode := by
  refine ⟨isRow_decodeCommand, isRow_decodeMicroOp, fun p hsize halign hread hwrite => ?_⟩
  have h := isRow_decodeTransaction (.ofPorts p) (legalAccess_iff.mpr ⟨hsize, halign⟩) hread hwrite
  rwa [portsOfTransaction_ofPorts] at h

/-! ## A write of CTRL -/

theorem State.hostWrite_ctrl (s : State) (v : HostWord) : s.hostWrite 0 4 v = s.ctrlWrite v := by
  have hl : locate 0 = .ctrl := by decide
  have hb : badAccess 0 4 = false := by decide
  cases hy : s.chip.busy
  · rw [State.hostWrite, hb, hl, hy]
    rfl
  · rw [s.hostWrite_of_busy v hb hy, State.ctrlWrite, State.commandWhenIdle_busy _ _ hy]

/-- Settles O15: both are the write of the word to CTRL. -/
theorem ctrlWriteRunsItsCommand : Obligations.CtrlWriteRunsItsCommand := fun v s =>
  (congrArg Host.Outcome.next (s.hostWrite_ctrl v)).trans (exec_decodeCommand s v).symm

/-! ## The frame of the cipher's iterations -/

@[simp] theorem State.iterate_rsp (s : State) (o : Option Chip) : (s.iterate o).rsp = s.rsp := by
  cases o <;> rfl

/-- A micro-operation that performs an iteration is answered only where it is a row of the table (log 22), and then it is
an `iterate`. -/
theorem exec_of_microOpMode {i : Instr} {m : Mode} {s t : State} (hm : microOpMode? i = some m) (h : exec i s = .next t) :
    WellFormed i ∧ ∃ o, t = s.iterate o := by
  cases i with
  | expFirst | expLast | encFirst | encLast | decFirst | decLast =>
    cases h
    exact ⟨rfl, _, rfl⟩
  | expNext r | encMid r | decMid r =>
    simp only [exec, execExpNext, execEncMid, execDecMid] at h
    split at h <;> cases h
    next hr => exact ⟨midRound_iff.mpr hr, _, rfl⟩
  | clear | expand | encrypt | decrypt | illegalCmd _ | rsvdBits _ _ | unreachable _ _ | noStep _ | rd32 _ _ | wr32 _ _ _ =>
    cases hm

/-- Iteration 9 is the last of its mode (30_encoding R75). -/
theorem isLast_of_iteration_nine {i : Instr} (hi : WellFormed i) (h : i.iteration? = some 9) :
    i = .expLast ∨ i = .encLast ∨ i = .decLast := by
  cases i with
  | expLast => exact .inl rfl
  | encLast => exact .inr (.inl rfl)
  | decLast => exact .inr (.inr rfl)
  | expNext r | encMid r | decMid r =>
    have hr : r.toNat = 9 := Option.some.inj h
    obtain ⟨-, h8⟩ := midRound_iff.mp hi
    omega
  | expFirst | encFirst | decFirst | clear | expand | encrypt | decrypt | illegalCmd _ | rsvdBits _ _ | unreachable _ _
  | noStep _ | rd32 _ _ | wr32 _ _ _ => cases h

/-- `c'` differs from `c` at most in ST, RND, DOUT, MODE and BUSY. -/
def Chip.CipherFrame (c c' : Chip) : Prop :=
  c'.key = c.key ∧ c'.rk = c.rk ∧ c'.din = c.din ∧ c'.ksv = c.ksv ∧ c'.err = c.err

/-- DOUT, MODE and BUSY are as before: no operation has completed. -/
def Chip.StillRunning (c c' : Chip) : Prop := c'.dout = c.dout ∧ c'.mode = c.mode ∧ c'.busy = c.busy

theorem Chip.Iterated.cipherFrame {c c' : Chip} {i : Instr} {m : Mode} (h : c.Iterated i c') (hm : microOpMode? i = some m)
    (cipher : m ≠ .expand) : c.CipherFrame c' := by
  cases h with
  | expandRound mode | expandDone mode => exact absurd (Option.some.inj (hm.symm.trans mode)) cipher
  | unchanged | cipherRound | cipherDone => exact ⟨rfl, rfl, rfl, rfl, rfl⟩

/-- Only iteration 9 completes. -/
theorem Chip.Iterated.stillRunning {c c' : Chip} {i : Instr} {m : Mode} (h : c.Iterated i c')
    (hm : microOpMode? i = some m) (cipher : m ≠ .expand) (hn : i.iteration? ≠ some 9) : c.StillRunning c' := by
  cases h with
  | expandRound mode | expandDone mode => exact absurd (Option.some.inj (hm.symm.trans mode)) cipher
  | cipherDone _ _ iteration => exact absurd iteration hn
  | unchanged | cipherRound => exact ⟨rfl, rfl, rfl⟩

/-- Settles O21: what an iteration of a cipher can do to the block is one of the cases of `Chip.Iterated`, and only
ENC_LAST and DEC_LAST complete. -/
theorem cipherIterationFrame : Obligations.CipherIterationFrame := by
  intro i s t hi h
  obtain ⟨m, hm, cipher⟩ : ∃ m, microOpMode? i = some m ∧ m ≠ .expand := by
    obtain rfl | rfl | rfl | rfl | ⟨r, rfl⟩ | ⟨r, rfl⟩ := hi <;> exact ⟨_, rfl, by decide⟩
  have hlen : i.bitLength = 6 := by
    obtain rfl | rfl | rfl | rfl | ⟨r, rfl⟩ | ⟨r, rfl⟩ := hi <;> rfl
  have it := exec_iterated i s t hlen h
  obtain ⟨wf, o, rfl⟩ := exec_of_microOpMode hm h
  obtain ⟨hkey, hrk, hdin, hksv, herr⟩ := it.cipherFrame hm cipher
  refine ⟨hkey, hrk, hdin, hksv, herr, fun he hd => ?_, s.iterate_rsp o, s.sameAround_iterate o⟩
  refine it.stillRunning hm cipher fun h9 => ?_
  obtain rfl | rfl | rfl := isLast_of_iteration_nine wf h9
  · exact cipher (Option.some.inj hm).symm
  · exact he rfl
  · exact hd rfl

/-! ## A step as an access -/

/-- An access at an address of the window is a transaction at its offset. -/
theorem accessTransaction?_of_mem {p : Params} {a : Access} (h : p.base ≤ a.addr) (h' : a.addr < p.base + 256) :
    accessTransaction? p a = some ⟨a.dir, BitVec.ofNat 8 (a.addr - p.base), a.size, a.wdata⟩ := if_pos ⟨h, h'⟩

/-- Settles O7: the agenda's first event is the access, and the window test succeeds. -/
theorem stepRunsBusTransaction : Obligations.StepRunsBusTransaction := by
  intro s a rest hs h h'
  have he : s.nextEvent = .access a := by simp [State.nextEvent, hs]
  simp only [step, runEvent, he, busAccess, State.popEvent_params, accessTransaction?_of_mem h h']
  rfl

/-- After an OK response the host goes on with the read data. -/
theorem hostContinue_of_ok (next : Option HostWord → HostAgent) {t : State} {d : Option HostWord}
    (h : t.rsp = some ⟨d, false⟩) : hostContinue next (.next t) = .next (t.withHost (next d)) := by
  simp [hostContinue, h]

theorem hostReadLine_of_ok {off : BitVec 8} {s t : State} {x : HostWord} (next : HostWord → HostAgent)
    (ht : portAccess ⟨.read, off, 4, 0⟩ s = .next t) (h : t.rsp = some ⟨some x, false⟩) :
    hostReadLine off s next = .next (t.withHost ((next x).afterRead off x)) := by
  rw [hostReadLine, ht, hostContinue_of_ok _ h]

/-- Settles O8: the line is its access, and an OK response lets the host go on. -/
theorem stepRunsScriptAccess : Obligations.StepRunsScriptAccess := by
  intro s t off x name rest he hh
  refine ⟨fun hs ht hok => ⟨?_, ?_⟩, fun hs ht hok => ?_⟩
  · have hp : portAccess ⟨.write, off, 4, x⟩ s.popEvent = .next t := ht
    rw [step_of_host_line s _ rest he hh hs]
    simp only [issueLine, HostAgent.value?, hp]
    exact hostContinue_of_ok _ hok
  · rintro rfl h1 h3 ⟨-, -, hw⟩
    exact absurd (HostAgent.afterWrite_waiting _ x h1 h3) (Bool.eq_false_iff.mp hw)
  · rw [step_of_host_line s _ rest he hh hs]
    exact hostReadLine_of_ok _ ht hok

/-! ## WAIT -/

/-- Bit 0 of STATUS is BUSY (10_state R34). -/
theorem Chip.statusWord_getLsbD_zero (c : Chip) : c.statusWord.getLsbD 0 = c.busy := by
  obtain ⟨hbusy, -⟩ := c.statusWord_fields
  simpa using congrArg (·.getLsbD 0) hbusy

/-- A WAIT's read is answered in every state, and the host polls with STATUS. -/
theorem issueLine_wait (s : State) (rest : List HostLine) : issueLine .wait rest s =
    .next ((s.respondRead s.chip.statusWord).withHost
      ((s.host.afterPoll rest s.chip.statusWord).afterRead 0x04 s.chip.statusWord)) :=
  hostReadLine_of_ok _ (congrArg Host.Outcome.next s.hostRead_status) rfl

/-- Settles O54: one poll, and bit 0 of what it read decides. -/
theorem waitEndsOnlyWhenIdle : Obligations.WaitEndsOnlyWhenIdle := by
  intro s rest he hh hs
  have hbit := s.chip.statusWord_getLsbD_zero
  refine ⟨_, (step_of_host_line s _ rest he hh hs).trans (issueLine_wait s.popEvent rest), rfl, rfl, rfl, hh, rfl,
    fun busy => ?_, fun idle => ?_⟩
  · rw [busy] at hbit
    simp [HostAgent.afterRead_busy, hbit, hs]
  · rw [idle] at hbit
    have hscript : (if s.chip.statusWord.getLsbD 0 then s.host.script else rest) = rest := if_neg (Bool.eq_false_iff.mp hbit)
    have hwait := HostAgent.afterRead_status_idle (s.host.afterPoll rest s.chip.statusWord) _ hbit
    exact ⟨hscript, hwait, fun hr hc => ⟨⟨hscript.trans hr, hh, hwait⟩, hc⟩⟩

end Sys2Proof.Machine

/-! The statements of 40_primitives: bytes, words and 16-byte values as vectors over the two-element field, the product of
GF(2^8), the tables, and the round transforms (40_primitives R85 to R107). The maps that are linear over xor are compared on
the powers of x. -/

namespace Sys2Proof

/-! ## Bytes as sums of powers of x -/

/-- The term of x^i in `a`. -/
def Byte.term (a : Byte) (i : Fin 8) : Byte := if a.getLsbD i then 1 <<< i.val else 0

/-- A byte is the sum of its terms (40_primitives R85). -/
theorem Byte.foldr_term (a : Byte) : (List.finRange 8).foldr (fun i r => a.term i ^^^ r) 0 = a := by
  revert a
  decide +kernel

/-- What holds of the powers of x and passes to sums holds of every byte. -/
theorem Byte.xor_induction {p : Byte → Prop} (power : ∀ i : Fin 8, p (1 <<< i.val))
    (xor : ∀ a b, p a → p b → p (a ^^^ b)) (a : Byte) : p a := by
  have zero : p 0 := xor 1 1 (power 0) (power 0)
  have term (i : Fin 8) : p (a.term i) := by
    unfold Byte.term
    split
    · exact power i
    · exact zero
  rw [← a.foldr_term]
  exact List.foldrRecOn (motive := p) _ _ zero fun r hr i _ => xor _ _ (term i) hr

theorem Byte.xor_xor_xor_comm (a b c d : Byte) : a ^^^ b ^^^ (c ^^^ d) = a ^^^ c ^^^ (b ^^^ d) := by ac_rfl

/-! ## Words and 16-byte values -/

/-- The word with `a` at place `r` and zero elsewhere. -/
def ByteWord.single (r : Fin 4) (a : Byte) : ByteWord := .ofFn fun k => if k = r then a else 0

theorem ByteWord.single_xor (r : Fin 4) (a b : Byte) : single r (a ^^^ b) = (single r a).xor (single r b) := by
  fin_cases r <;> simp [single, ofFn, xor]

theorem ByteWord.xor_singles (w : ByteWord) :
    (((single 0 w.a0).xor (single 1 w.a1)).xor (single 2 w.a2)).xor (single 3 w.a3) = w := by
  simp [single, ofFn, xor]

/-- What holds of the words with one power of x at one place, and passes to sums, holds of every word. -/
theorem ByteWord.xor_induction {p : ByteWord → Prop} (power : ∀ (r : Fin 4) (i : Fin 8), p (single r (1 <<< i.val)))
    (xor : ∀ v w, p v → p w → p (v.xor w)) (w : ByteWord) : p w := by
  have byte (r : Fin 4) (a : Byte) : p (single r a) := by
    induction a using Byte.xor_induction with
    | power i => exact power r i
    | xor a b iha ihb => exact single_xor r a b ▸ xor _ _ iha ihb
  rw [← w.xor_singles]
  exact xor _ _ (xor _ _ (xor _ _ (byte 0 _) (byte 1 _)) (byte 2 _)) (byte 3 _)

section Blocks
variable (s : Block) (f : Byte → Byte)

@[simp] theorem Block.rc_ofRowCol (f : Fin 4 → Fin 4 → Byte) (r c : Fin 4) : (Block.ofRowCol f).rc r c = f r c := by
  fin_cases c <;> fin_cases r <;> rfl

@[simp] theorem Block.ofRowCol_rc : Block.ofRowCol s.rc = s := rfl

@[simp] theorem Block.rc_map (r c : Fin 4) : (s.map f).rc r c = f (s.rc r c) := by
  fin_cases c <;> fin_cases r <;> rfl

theorem Block.map_ofRowCol (h : Fin 4 → Fin 4 → Byte) : (Block.ofRowCol h).map f = .ofRowCol fun r c => f (h r c) := rfl

theorem Block.map_map_of_leftInverse {f g : Byte → Byte} (h : Function.LeftInverse g f) : (s.map f).map g = s := by
  simp [Block.map, Block.mapWords, ByteWord.map, h _]

theorem Block.mapWords_mapWords_of_leftInverse {f g : ByteWord → ByteWord} (h : Function.LeftInverse g f) :
    (s.mapWords f).mapWords g = s := by
  simp [Block.mapWords, h _]

theorem Block.mapWords_xor {f : ByteWord → ByteWord} (h : ∀ v w, f (v.xor w) = (f v).xor (f w)) (k : Block) :
    (s.xor k).mapWords f = (s.mapWords f).xor (k.mapWords f) := by
  simp [Block.mapWords, Block.xor, h]

end Blocks

end Sys2Proof

namespace Sys2Proof.Machine

/-! ## The product of GF(2^8) -/

theorem ite_xor (p q : Bool) (a : Byte) :
    (if p ^^ q then a else 0) = (if p then a else 0) ^^^ (if q then a else 0) := by
  cases p <;> cases q <;> simp

theorem xtime_xor (a b : Byte) : xtime (a ^^^ b) = xtime a ^^^ xtime b := by
  rw [xtime, BitVec.shiftLeft_xor_distrib, BitVec.getLsbD_xor, ite_xor, Byte.xor_xor_xor_comm, ← xtime, ← xtime]

theorem gmulLoop_succ (n : Nat) (a b r : Byte) :
    gmulLoop (n + 1) a b r = gmulLoop n (xtime a) (b >>> 1) (r ^^^ if b.getLsbD 0 then a else 0) := by
  rw [gmulLoop]
  split <;> simp

theorem gmulLoop_xor_left (n : Nat) (a a' b r r' : Byte) :
    gmulLoop n (a ^^^ a') b (r ^^^ r') = gmulLoop n a b r ^^^ gmulLoop n a' b r' := by
  induction n generalizing a a' b r r' with
  | zero => rfl
  | succ n ih =>
    have hbit : (if b.getLsbD 0 then a ^^^ a' else 0) =
        (if b.getLsbD 0 then a else 0) ^^^ (if b.getLsbD 0 then a' else 0) := by
      split <;> simp
    rw [gmulLoop_succ, xtime_xor, hbit, Byte.xor_xor_xor_comm, ih, ← gmulLoop_succ, ← gmulLoop_succ]

theorem gmulLoop_xor_right (n : Nat) (a b c r r' : Byte) :
    gmulLoop n a (b ^^^ c) (r ^^^ r') = gmulLoop n a b r ^^^ gmulLoop n a c r' := by
  induction n generalizing a b c r r' with
  | zero => rfl
  | succ n ih =>
    rw [gmulLoop_succ, BitVec.ushiftRight_xor_distrib, BitVec.getLsbD_xor, ite_xor, Byte.xor_xor_xor_comm, ih,
      ← gmulLoop_succ, ← gmulLoop_succ]

theorem gmul_xor_left (a a' b : Byte) : gmul (a ^^^ a') b = gmul a b ^^^ gmul a' b := gmulLoop_xor_left 8 a a' b 0 0

theorem gmul_xor_right (a b c : Byte) : gmul a (b ^^^ c) = gmul a b ^^^ gmul a c := gmulLoop_xor_right 8 a b c 0 0

theorem gmul_powers_comm : ∀ i j : Fin 8, gmul (1 <<< i.val) (1 <<< j.val) = gmul (1 <<< j.val) (1 <<< i.val) := by
  decide +kernel

theorem gmul_comm (a b : Byte) : gmul a b = gmul b a := by
  induction a using Byte.xor_induction with
  | xor a a' iha iha' => rw [gmul_xor_left, gmul_xor_right, iha, iha']
  | power i =>
    induction b using Byte.xor_induction with
    | xor b b' ihb ihb' => rw [gmul_xor_left, gmul_xor_right, ihb, ihb']
    | power j => exact gmul_powers_comm i j

theorem gmul_one (a : Byte) : gmul a 1 = a := by simp [gmul, gmulLoop]

theorem gmul_two (a : Byte) : gmul a 2 = xtime a := by simp [gmul, gmulLoop]

/-- Settles O50: the shift-and-add loop is additive in each operand, so commuting is a fact about the powers of x. -/
theorem fieldProductLaws : Obligations.FieldProductLaws := fun a b c =>
  ⟨gmul_comm a b, gmul_xor_right a b c, gmul_two a, gmul_one a⟩

/-! ## SBOX, INV_SBOX and RCON -/

/-- Entry by entry; the two facts are checked together so that each power a^254 is computed once. -/
theorem sbox_and_ginv_entries : ∀ a : Byte, sbox a = sboxAffine (ginv a) ∧ (a ≠ 0 → gmul a (ginv a) = 1) := by
  decide +kernel

/-- Settles O51: 0 is its own power, and the other entries are checked. -/
theorem sboxIsAffineOfInverse : Obligations.SboxIsAffineOfInverse :=
  ⟨fun a => (sbox_and_ginv_entries a).1, fun a => (sbox_and_ginv_entries a).2, by decide +kernel⟩

theorem invSbox_sbox : Function.LeftInverse invSbox sbox := by
  intro a
  revert a
  decide +kernel

theorem sbox_injective : Function.Injective sbox := invSbox_sbox.injective

/-- On a finite set an injection is onto. -/
theorem sbox_surjective : Function.Surjective sbox := Finite.injective_iff_surjective.mp sbox_injective

theorem sbox_invSbox : Function.LeftInverse sbox invSbox := invSbox_sbox.rightInverse_of_surjective sbox_surjective

theorem sbox_ne_self_and_complement : ∀ a : Byte, sbox a ≠ a ∧ sbox a ≠ a ^^^ 0xFF := by
  decide +kernel

/-- Settles O52: INV_SBOX undoes SBOX, so SBOX is injective, and onto as bytes are finitely many. -/
theorem sboxProperties : Obligations.SboxProperties := by
  refine ⟨fun _ _ h => sbox_injective h, sbox_surjective, invSbox_sbox, sbox_ne_self_and_complement, ?_⟩
  decide +kernel

/-- Settles O53: the ten entries are evaluated. -/
theorem rconDoubles : Obligations.RconDoubles := by
  unfold Obligations.RconDoubles
  decide

/-! ## SubBytes and ShiftRows -/

section RoundTransforms
variable (s k : Block)

@[simp] theorem invSubBytes_subBytes : invSubBytes (subBytes s) = s := s.map_map_of_leftInverse invSbox_sbox

@[simp] theorem subBytes_invSubBytes : subBytes (invSubBytes s) = s := s.map_map_of_leftInverse sbox_invSbox

@[simp] theorem invShiftRows_shiftRows : invShiftRows (shiftRows s) = s := by
  simp [invShiftRows, shiftRows]

@[simp] theorem shiftRows_invShiftRows : shiftRows (invShiftRows s) = s := by
  simp [invShiftRows, shiftRows]

/-- A map of every byte commutes with a move of bytes. -/
theorem subBytes_shiftRows : subBytes (shiftRows s) = shiftRows (subBytes s) := by
  simp [subBytes, shiftRows, Block.map_ofRowCol]

theorem invSubBytes_invShiftRows : invSubBytes (invShiftRows s) = invShiftRows (invSubBytes s) := by
  simp [invSubBytes, invShiftRows, Block.map_ofRowCol]

/-! ## MixColumns -/

theorem mixColumn_xor (v w : ByteWord) : mixColumn (v.xor w) = (mixColumn v).xor (mixColumn w) := by
  simp only [mixColumn, ByteWord.xor, gmul_xor_left]
  ac_rfl

theorem invMixColumn_xor (v w : ByteWord) : invMixColumn (v.xor w) = (invMixColumn v).xor (invMixColumn w) := by
  simp only [invMixColumn, ByteWord.xor, gmul_xor_left]
  ac_rfl

theorem invMixColumn_mixColumn : Function.LeftInverse invMixColumn mixColumn := by
  intro w
  induction w using ByteWord.xor_induction with
  | power r i => revert r i; decide +kernel
  | xor v w ihv ihw => rw [mixColumn_xor, invMixColumn_xor, ihv, ihw]

theorem mixColumn_invMixColumn : Function.LeftInverse mixColumn invMixColumn := by
  intro w
  induction w using ByteWord.xor_induction with
  | power r i => revert r i; decide +kernel
  | xor v w ihv ihw => rw [invMixColumn_xor, mixColumn_xor, ihv, ihw]

@[simp] theorem invMixColumns_mixColumns : invMixColumns (mixColumns s) = s :=
  s.mapWords_mapWords_of_leftInverse invMixColumn_mixColumn

@[simp] theorem mixColumns_invMixColumns : mixColumns (invMixColumns s) = s :=
  s.mapWords_mapWords_of_leftInverse mixColumn_invMixColumn

theorem invMixColumns_xor : invMixColumns (s.xor k) = (invMixColumns s).xor (invMixColumns k) :=
  s.mapWords_xor invMixColumn_xor k

/-- The identity of the equivalent inverse cipher (40_primitives R107 (f)). -/
theorem aesd_invMixColumns : aesd (invMixColumns s) (invMixColumns k) =
    invSubBytes (invShiftRows (invMixColumns (s.xor k))) := by
  rw [aesd, invMixColumns_xor]

end RoundTransforms

/-- Settles O49: the laws of the byte maps, the moves and the columns, each lifted to the state. -/
theorem roundTransformLaws : Obligations.RoundTransformLaws := fun s k =>
  ⟨invSubBytes_subBytes s, subBytes_invSubBytes s, invShiftRows_shiftRows s, shiftRows_invShiftRows s,
    subBytes_shiftRows s, invSubBytes_invShiftRows s, invMixColumns_mixColumns s, mixColumns_invMixColumns s,
    invMixColumns_xor s k, aesd_invMixColumns s k⟩

end Sys2Proof.Machine

/-! The statements of 41_key_expansion: the acceptance of EXPAND, the expander's iterations and their frame, the run of an
accepted command through any number of iterations a core step, and the expansion word by word (41_key_expansion R111 to
R119). -/

namespace Sys2Proof.Machine

/-! ## EXPAND's acceptance -/

theorem Reg.isWritten_eq_false_of_none {r : Reg} {k : Fin 4} (h : r[k] = none) : r.isWritten = false := by
  rw [Bool.eq_false_iff]
  intro hw
  have hk : r[k].isSome = true := r.isWritten_iff.mp hw k
  simp [h] at hk

section ExpandCommand
variable {s : State}

theorem State.expandCommand_of_written (h : s.chip.key.isWritten = true) :
    s.expandCommand = (s.withChip (s.chip.start .expand)).respondWritten := if_pos h

theorem State.expandCommand_of_unwritten (h : s.chip.key.isWritten = false) : s.expandCommand = s.unwrittenFault :=
  if_neg (Bool.eq_false_iff.mp h)

theorem exec_expand_idle (idle : s.chip.busy = false) : exec .expand s = .next s.expandCommand :=
  congrArg Host.Outcome.next (s.commandWhenIdle_idle _ idle)

theorem exec_expand_busy (busy : s.chip.busy = true) : exec .expand s = .next s.busyFault :=
  congrArg Host.Outcome.next (s.commandWhenIdle_busy _ busy)

/-- An accepted command changes the block alone, and is answered. -/
theorem State.changedTo_respondWritten (c : Chip) : s.ChangedTo c (s.withChip c).respondWritten :=
  ⟨rfl, rfl, rfl, rfl, rfl, rfl⟩

end ExpandCommand

/-- Settles O12: EXPAND's operand check asks for the four KEY words, and the busy check comes before it. -/
theorem expandCommandResult : Obligations.ExpandCommandResult := by
  refine ⟨rfl, fun s => ⟨fun idle hk => ?_, fun idle ⟨k, hk⟩ => ?_, fun busy => ?_⟩⟩
  · refine ⟨_, exec_expand_idle idle, ?_⟩
    rw [State.expandCommand_of_written (s.chip.key.isWritten_iff.mpr hk)]
    exact State.changedTo_respondWritten (s.chip.start .expand)
  · refine ⟨_, exec_expand_idle idle, ?_⟩
    rw [State.expandCommand_of_unwritten (Reg.isWritten_eq_false_of_none hk)]
    exact s.faultedTo_unwrittenFault
  · exact ⟨_, exec_expand_busy busy, s.faultedTo_busyFault⟩

/-! ## One iteration -/

section ExpandIteration
variable {s : State} {p : Block}

/-- `RK[j] <- NextRoundKey(p, RCON[j+1])`, what every iteration of the expander writes (41_key_expansion R115 to R117). -/
def Chip.storeNextRoundKey (c : Chip) (j : Fin 10) (p : Block) : Chip :=
  c.storeRoundKey j (nextRoundKey p (rcon (j.val + 1)))

theorem exec_expFirst (h : s.chip.expandSource? 0 = some p) :
    exec .expFirst s = .next (s.withChip ((s.chip.storeNextRoundKey 0 p).setRnd 1)) := by
  have hk : s.chip.key.block? = some p := h
  simp only [exec, execExpFirst, hk]
  rfl

theorem exec_expNext {r : BitVec 4} (hr : 1 ≤ r.toNat ∧ r.toNat ≤ 8)
    (h : s.chip.expandSource? ⟨r.toNat, by omega⟩ = some p) :
    exec (.expNext r) s = .next (s.withChip ((s.chip.storeNextRoundKey ⟨r.toNat, by omega⟩ p).setRnd (r + 1))) := by
  rw [s.chip.expandSource?_of_pos _ hr.1] at h
  simp only [exec, execExpNext, dif_pos hr, h]
  rfl

theorem exec_expLast (h : s.chip.expandSource? 9 = some p) :
    exec .expLast s = .next (s.withChip ((s.chip.storeNextRoundKey 9 p).setKsv true).complete) := by
  have hk : s.chip.roundKey? 8 = some p := h
  simp only [exec, execExpLast, hk]
  rfl

theorem add_one_eq_ofNat (r : BitVec 4) : r + 1 = BitVec.ofNat 4 (r.toNat + 1) := by
  rw [BitVec.ofNat_add, BitVec.ofNat_toNat, BitVec.setWidth_eq]
  rfl

end ExpandIteration

/-- Settles O17: each of the three meanings at a written operand. -/
theorem expandIterationResults : Obligations.ExpandIterationResults := by
  refine ⟨fun s k hk => exec_expFirst hk, fun s r h1 h8 p hp => ?_, fun s p hp => exec_expLast hp⟩
  rw [exec_expNext ⟨h1, h8⟩ ((s.chip.expandSource?_of_pos _ h1).trans hp), add_one_eq_ofNat]
  rfl

/-! ## The frame of an iteration -/

section ExpandFrame
variable {c c' : Chip} {i : Instr} {n : Nat}

/-- KEY, DIN, DOUT, ST, ERR and every round key but RK[n] are as before. -/
def Chip.ExpandFrame (c : Chip) (n : Nat) (c' : Chip) : Prop :=
  c'.key = c.key ∧ c'.din = c.din ∧ c'.dout = c.dout ∧ c'.st = c.st ∧ c'.err = c.err ∧
    ∀ j : Fin 10, j.val ≠ n → c'.rk[j] = c.rk[j]

theorem Chip.rk_storeRoundKey_of_ne (c : Chip) {i j : Fin 10} (v : Block) (h : j.val ≠ i.val) :
    (c.storeRoundKey i v).rk[j] = c.rk[j] :=
  Vector.getElem_set_ne i.isLt j.isLt h.symm

theorem Chip.Iterated.expandFrame (h : c.Iterated i c') (hm : microOpMode? i = some .expand)
    (hn : i.iteration? = some n) : c.ExpandFrame n c' := by
  cases h with
  | unchanged => exact ⟨rfl, rfl, rfl, rfl, rfl, fun _ _ => rfl⟩
  | expandRound _ iteration | expandDone _ iteration =>
    cases hn.symm.trans iteration
    exact ⟨rfl, rfl, rfl, rfl, rfl, fun _ hj => c.rk_storeRoundKey_of_ne _ hj⟩
  | cipherRound mode cipher | cipherDone mode cipher => exact absurd (Option.some.inj (mode.symm.trans hm)) cipher

/-- Before iteration 9 nothing completes. -/
theorem Chip.Iterated.expandRunning (h : c.Iterated i c') (hm : microOpMode? i = some .expand)
    (hn : i.iteration? ≠ some 9) : c'.ksv = c.ksv ∧ c'.mode = c.mode ∧ c'.busy = c.busy := by
  cases h with
  | unchanged | expandRound => exact ⟨rfl, rfl, rfl⟩
  | expandDone _ iteration => exact absurd iteration hn
  | cipherRound mode cipher | cipherDone mode cipher => exact absurd (Option.some.inj (mode.symm.trans hm)) cipher

end ExpandFrame

/-- Settles O20: what an iteration of the expander can do to the block is one of the cases of `Chip.Iterated`, at the
iteration number of its operation. -/
theorem expandIterationFrame : Obligations.ExpandIterationFrame := by
  intro i n s t hi h
  obtain ⟨hm, hlen, hn⟩ : microOpMode? i = some .expand ∧ i.bitLength = 6 ∧ i.iteration? = some n := by
    obtain ⟨rfl, rfl⟩ | ⟨r, rfl, rfl⟩ | ⟨rfl, rfl⟩ := hi <;> exact ⟨rfl, rfl, rfl⟩
  have it := exec_iterated i s t hlen h
  obtain ⟨-, o, rfl⟩ := exec_of_microOpMode hm h
  obtain ⟨hkey, hdin, hdout, hst, herr, hrk⟩ := it.expandFrame hm hn
  refine ⟨hkey, hdin, hdout, hst, herr, hrk, fun h9 => ?_, s.iterate_rsp o, s.sameAround_iterate o⟩
  exact it.expandRunning hm fun he => h9 (Option.some.inj (hn.symm.trans he))

/-! ## The run of an accepted command -/

/-- `f n` is the block after `n` of the ten iterations of a command that runs in `s`, at `u` iterations a core step
(44_host_access R149). -/
structure State.Iterates (s : State) (u : Nat) (f : Nat → Chip) : Prop where
  busy : ∀ n < 10, (f n).busy = true
  rnd : ∀ n < 10, (f n).rnd.toNat = n
  perStep : ∀ n < 10, (if (f n).mode = .expand then s.params.uExp else s.params.uSeq) = u
  next : ∀ n < 10, exec (decodeMicroOp (f n).uop) (s.withChip (f n)) = .next (s.withChip (f (n + 1)))
  done : ∀ n, 10 ≤ n → f n = f 10

section Run
variable {s : State} {u : Nat} {f : Nat → Chip}

theorem State.Iterates.coreIterations (h : s.Iterates u f) (m n : Nat) (hn : n + m ≤ 10) :
    coreIterations m (s.withChip (f n)) = .next (s.withChip (f (n + m))) := by
  induction m generalizing n with
  | zero => rfl
  | succ m ih =>
    rw [coreIterations_succ m (s.withChip (f n)) _ (h.next n (by omega)), ih (n + 1) (by omega), Nat.add_right_comm,
      Nat.add_assoc]

/-- A core step makes `u` iterations, or as many as are left. -/
theorem State.Iterates.coreStep (h : s.Iterates u f) (hu : 1 ≤ u) {n : Nat} (hn : n < 10) :
    coreStep (s.withChip (f n)) = .next (s.withChip (f (n + u))) := by
  have count : (s.withChip (f n)).stepIterations = min u (10 - n) := by
    unfold State.stepIterations
    rw [State.withChip_chip, State.withChip_params, h.perStep n hn, h.rnd n hn]
    omega
  have reached : f (n + min u (10 - n)) = f (n + u) := by
    obtain hle | hlt := Nat.le_total u (10 - n)
    · rw [min_eq_left hle]
    · rw [min_eq_right hlt, Nat.add_sub_of_le hn.le, h.done (n + u) (by omega)]
  rw [Machine.coreStep, count, State.withChip_chip, if_pos (h.busy n hn), h.coreIterations _ _ (by omega), reached]

/-- With no other event to come, the next step is a core step. -/
theorem State.Iterates.step (h : s.Iterates u f) (hu : 1 ≤ u) (ha : s.agenda = []) {n : Nat} (hn : n < 10) :
    step (s.withChip (f n)) = .next (s.withChip (f (n + u))) := by
  have core : (s.withChip (f n)).nextEvent = .core := by
    simp [State.nextEvent, ha, h.busy n hn]
  have pop : (s.withChip (f n)).popEvent = s.withChip (f n) := by
    simp [State.popEvent, State.withChip, ha]
  rw [step_of_core _ core, pop, h.coreStep hu hn]

/-- The bound says that each of the `m` core steps finds the command running. -/
theorem State.Iterates.run (h : s.Iterates u f) (hu : 1 ≤ u) (ha : s.agenda = []) (m n : Nat)
    (running : n + m * u < 10 + u) :
    Sys2Proof.core.run m (s.withChip (f n)) = .next (s.withChip (f (n + m * u))) := by
  induction m generalizing n with
  | zero =>
    rw [Nat.zero_mul]
    rfl
  | succ m ih =>
    rw [Nat.succ_mul] at running ⊢
    have hstep : Sys2Proof.core.step (s.withChip (f n)) = .next (s.withChip (f (n + u))) :=
      h.step hu ha (by omega)
    simp only [Host.Core.run, hstep]
    rw [ih (n + u) (by omega), Nat.add_assoc, Nat.add_comm u]

/-- The ten iterations take ceil(10 / u) core steps. -/
theorem State.Iterates.run_ceil (h : s.Iterates u f) (hu : 1 ≤ u) (ha : s.agenda = []) :
    Sys2Proof.core.run ((10 + u - 1) / u) (s.withChip (f 0)) = .next (s.withChip (f 10)) := by
  have upper : (10 + u - 1) / u * u ≤ 10 + u - 1 := Nat.div_mul_le_self _ _
  have lower : 10 + u - 1 < (10 + u - 1) / u * u + u := Nat.lt_div_mul_add hu
  rw [h.run hu ha _ 0 (by omega), h.done _ (by omega)]

end Run

/-! ## The run of EXPAND -/

section ExpandRun
variable {s : State} {c : Chip} {k : Block} {n : Nat}

/-- RK with the first `n` round keys of the key `k` written. -/
def Chip.roundKeysWritten (c : Chip) (k : Block) (n : Nat) : Vector Reg 10 :=
  Vector.ofFn fun j => if j.val < n then .ofBlock (roundKey k j.val) else c.rk[j]

theorem Chip.roundKeysWritten_zero : c.roundKeysWritten k 0 = c.rk := by
  ext j hj
  simp [Chip.roundKeysWritten]

theorem Chip.roundKeysWritten_succ (hn : n < 10) :
    (c.roundKeysWritten k n).set n (.ofBlock (roundKey k n)) = c.roundKeysWritten k (n + 1) := by
  refine Vector.ext fun j hj => ?_
  simp only [Chip.roundKeysWritten, Vector.getElem_set, Vector.getElem_ofFn]
  by_cases h : n = j
  · simp [h]
  · have hlt : j < n + 1 ↔ j < n := by omega
    simp [h, hlt]

/-- All ten round keys are the schedule. -/
theorem Chip.roundKeysWritten_ten : c.roundKeysWritten k 10 = (expandKey128 k).map Reg.ofBlock := by
  refine Vector.ext fun j hj => ?_
  rw [Vector.getElem_map, expandKey128_getElem k ⟨j, hj⟩]
  simp [Chip.roundKeysWritten]

theorem Chip.holdsRoundKey_of_roundKeysWritten {c' : Chip} (h : c'.rk = c.roundKeysWritten k n) {j : Fin 10}
    (hj : j.val < n) : c'.HoldsRoundKey k j := by
  unfold Chip.HoldsRoundKey
  rw [h, expandKey128_getElem]
  simp [Chip.roundKeysWritten, hj]

/-- With the round keys before it written, iteration `j` writes round key `j`. -/
theorem Chip.exists_expandSource {c : Chip} {j : Fin 10} (hk : c.key.block? = some k)
    (held : ∀ i : Fin 10, i.val < j.val → c.HoldsRoundKey k i) :
    ∃ p, c.expandSource? j = some p ∧ c.storeNextRoundKey j p = c.storeRoundKey j (roundKey k j.val) := by
  obtain ⟨p, hp⟩ : ∃ p, c.expandSource? j = some p := by
    match j with
    | ⟨0, _⟩ => exact ⟨k, hk⟩
    | ⟨n + 1, _⟩ => exact ⟨_, (held ⟨n, by omega⟩ n.lt_succ_self).roundKey?⟩
  refine ⟨p, hp, ?_⟩
  rw [Chip.storeNextRoundKey, Chip.nextRoundKey_of_held hk held hp, expandKey128_getElem]

/-- What UOP selects during an EXPAND, at RND in 0..8 (41_key_expansion R115, R116). -/
theorem exec_expandIteration {j : Fin 10} {p : Block} (hm : s.chip.mode = .expand) (hj : s.chip.rnd.toNat = j.val)
    (h8 : j.val ≤ 8) (hp : s.chip.expandSource? j = some p) : exec (decodeMicroOp s.chip.uop) s =
      .next (s.withChip ((s.chip.storeNextRoundKey j p).setRnd (s.chip.rnd + 1))) := by
  rw [decodeMicroOp_uop, hm]
  by_cases h0 : s.chip.rnd = 0
  · obtain rfl : j = 0 := Fin.ext (by simp [← hj, h0])
    rw [h0]
    exact exec_expFirst hp
  · obtain ⟨n, hn⟩ := j
    obtain rfl : s.chip.rnd.toNat = n := hj
    have hr : 1 ≤ s.chip.rnd.toNat ∧ s.chip.rnd.toNat ≤ 8 := ⟨by bv_omega, h8⟩
    dsimp only
    rw [decodeRound_mid _ _ _ hr]
    exact exec_expNext hr hp

/-- And at RND = 9 (41_key_expansion R117). -/
theorem exec_expandCompletion {p : Block} (hm : s.chip.mode = .expand) (hr : s.chip.rnd = 9)
    (hp : s.chip.expandSource? 9 = some p) : exec (decodeMicroOp s.chip.uop) s =
      .next (s.withChip ((s.chip.storeNextRoundKey 9 p).setKsv true).complete) := by
  rw [decodeMicroOp_uop, hm, hr]
  exact exec_expLast hp

/-- The block of a running EXPAND of the key `k` that has made `n` iterations (41_key_expansion R118). -/
def Chip.expanding (c : Chip) (k : Block) (n : Nat) : Chip :=
  { c with rk := c.roundKeysWritten k n, rnd := BitVec.ofNat 4 n }

/-- The block that an EXPAND of the key `k` leaves (41_key_expansion R119). -/
def Chip.expanded (c : Chip) (k : Block) : Chip :=
  { c with rk := (expandKey128 k).map Reg.ofBlock, ksv := true, busy := false, mode := .idle, rnd := 0 }

/-- The block after `n` iterations. -/
def Chip.afterExpand (c : Chip) (k : Block) (n : Nat) : Chip := if n < 10 then c.expanding k n else c.expanded k

theorem Chip.afterExpand_of_lt (hn : n < 10) : c.afterExpand k n = c.expanding k n := if_pos hn

theorem Chip.afterExpand_of_le (hn : 10 ≤ n) : c.afterExpand k n = c.expanded k := if_neg (Nat.not_lt.mpr hn)

theorem Chip.expanding_zero (hr : c.rnd = 0) : c.expanding k 0 = c := by
  have hr : BitVec.ofNat 4 0 = c.rnd := hr.symm
  rw [Chip.expanding, Chip.roundKeysWritten_zero, hr]

theorem Chip.expanding_rnd_toNat (hn : n < 10) : (c.expanding k n).rnd.toNat = n :=
  (BitVec.toNat_ofNat n 4).trans (Nat.mod_eq_of_lt (by omega))

theorem Chip.expanding_storeRoundKey (hn : n < 10) :
    ((c.expanding k n).storeRoundKey ⟨n, hn⟩ (roundKey k n)).setRnd ((c.expanding k n).rnd + 1) =
      c.expanding k (n + 1) := by
  rw [add_one_eq_ofNat, Chip.expanding_rnd_toNat hn]
  simp only [Chip.storeRoundKey, Chip.setRnd, Chip.expanding, Chip.roundKeysWritten_succ hn]

theorem Chip.expanding_complete :
    (((c.expanding k 9).storeRoundKey 9 (roundKey k 9)).setKsv true).complete = c.expanded k := by
  have hrk : (c.expanding k 9).rk.set 9 (.ofBlock (roundKey k 9)) = (expandKey128 k).map Reg.ofBlock :=
    (Chip.roundKeysWritten_succ (by omega)).trans Chip.roundKeysWritten_ten
  simp only [Chip.storeRoundKey, Chip.setKsv, Chip.complete, Chip.expanded, ← hrk]
  rfl

/-- Iteration `n` of an EXPAND takes the block to the next of its blocks (41_key_expansion R118). -/
theorem exec_afterExpand (s : State) (hm : c.mode = .expand) (hk : c.key.block? = some k) (hn : n < 10) :
    exec (decodeMicroOp (c.expanding k n).uop) (s.withChip (c.expanding k n)) =
      .next (s.withChip (c.afterExpand k (n + 1))) := by
  obtain ⟨p, hp, hstore⟩ := Chip.exists_expandSource (c := c.expanding k n) (j := ⟨n, hn⟩) hk fun i hi =>
    Chip.holdsRoundKey_of_roundKeysWritten rfl hi
  have hr : (s.withChip (c.expanding k n)).chip.rnd.toNat = n := Chip.expanding_rnd_toNat hn
  obtain h8 | rfl := Nat.lt_or_eq_of_le (Nat.le_of_lt_succ hn)
  · rw [Chip.afterExpand_of_lt (by omega), ← Chip.expanding_storeRoundKey hn, ← hstore]
    exact exec_expandIteration (s := s.withChip (c.expanding k n)) (j := ⟨n, hn⟩) hm hr (Nat.le_of_lt_succ h8) hp
  · have hstore9 : (c.expanding k 9).storeNextRoundKey 9 p = (c.expanding k 9).storeRoundKey 9 (roundKey k 9) := hstore
    rw [Chip.afterExpand_of_le (by omega), ← Chip.expanding_complete, ← hstore9]
    exact exec_expandCompletion (s := s.withChip (c.expanding k 9)) hm rfl hp

theorem State.iterates_afterExpand (s : State) (hb : c.busy = true) (hm : c.mode = .expand)
    (hk : c.key.block? = some k) : s.Iterates s.params.uExp (c.afterExpand k) where
  busy n hn := by rwa [Chip.afterExpand_of_lt hn]
  rnd n hn := by rw [Chip.afterExpand_of_lt hn, Chip.expanding_rnd_toNat hn]
  perStep n hn := by
    rw [Chip.afterExpand_of_lt hn]
    exact if_pos hm
  next n hn := by
    rw [Chip.afterExpand_of_lt hn]
    exact exec_afterExpand s hm hk hn
  done n hn := by rw [Chip.afterExpand_of_le hn, Chip.afterExpand_of_le le_rfl]

end ExpandRun

/-- Settles O44: after `n` iterations the first `n` round keys are those of KEY, and the tenth completes. -/
theorem expandRunWritesSchedule : Obligations.ExpandRunWritesSchedule := by
  intro s k ha hb hm hr hk
  have h0 : s.withChip (s.chip.afterExpand k 0) = s := by
    rw [Chip.afterExpand_of_lt (by omega), Chip.expanding_zero hr]
    rfl
  have run := (s.iterates_afterExpand hb hm hk).run_ceil (Nat.le_add_left 1 _) ha
  rw [h0, Chip.afterExpand_of_le le_rfl] at run
  exact run

/-! ## The expansion word by word -/

section ExpandedWords
variable (k : Block) {i n m : Nat} (z : ByteWord)

theorem expandedWords_length (n : Nat) : (expandedWords k n).length = n + 4 := by
  induction n with
  | zero => rfl
  | succ n ih => rw [expandedWords, List.length_append, ih, List.length_singleton]

/-- Later words do not change earlier ones. -/
theorem expandedWords_getD_of_lt (hi : i < n + 4) (hm : n ≤ m) :
    (expandedWords k m).getD i z = (expandedWords k n).getD i z := by
  induction m, hm using Nat.le_induction with
  | base => rfl
  | succ m hm ih =>
    rw [expandedWords, List.getD_append _ _ _ _ (by rw [expandedWords_length]; omega), ih]

/-- W[i] of the expansion of the key `k`, i in 0..43 (41_key_expansion R111). -/
def expandedWord (i : Nat) : ByteWord := (expandedWords k 40).getD i ⟨0, 0, 0, 0⟩

/-- The 16-byte value of W[i], .., W[i+3]. -/
def expandedBlock (i : Nat) : Block :=
  ⟨expandedWord k i, expandedWord k (i + 1), expandedWord k (i + 2), expandedWord k (i + 3)⟩

theorem expandedWord_eq_getD (hi : i < n + 4) (hn : n ≤ 40) :
    expandedWord k i = (expandedWords k n).getD i ⟨0, 0, 0, 0⟩ :=
  expandedWords_getD_of_lt k _ hi hn

/-- The recurrence of 41_key_expansion R111. -/
theorem expandedWord_add_four (hn : n < 40) : expandedWord k (n + 4) =
    if n % 4 = 0 then (expandG (expandedWord k (n + 3)) (rcon (n / 4 + 1))).xor (expandedWord k n)
    else (expandedWord k (n + 3)).xor (expandedWord k n) := by
  have hnext : expandedWord k (n + 4) = nextExpandedWord (expandedWords k n) := by
    rw [expandedWord_eq_getD k (n := n + 1) (by omega) hn, expandedWords,
      List.getD_append_right _ _ _ _ (expandedWords_length k n).le, expandedWords_length, Nat.sub_self]
    rfl
  rw [hnext, expandedWord_eq_getD k (i := n + 3) (n := n) (by omega) hn.le,
    expandedWord_eq_getD k (i := n) (n := n) (by omega) hn.le]
  simp only [nextExpandedWord, expandedWords_length, Nat.add_mod_right, Nat.add_div_right n (show 0 < 4 by omega),
    Nat.add_sub_cancel]
  rfl

theorem expandedWord_first {j : Nat} (hj : j < 10) : expandedWord k (4 * j + 4) =
    (expandG (expandedWord k (4 * j + 3)) (rcon (j + 1))).xor (expandedWord k (4 * j)) := by
  rw [expandedWord_add_four k (by omega), if_pos (by omega), Nat.mul_div_cancel_left j (by omega)]

theorem expandedWord_other (hn : n < 40) (h : n % 4 ≠ 0) :
    expandedWord k (n + 4) = (expandedWord k (n + 3)).xor (expandedWord k n) := by
  rw [expandedWord_add_four k hn, if_neg h]

/-- The first four words are the key (41_key_expansion R111). -/
theorem expandedBlock_zero : expandedBlock k 0 = k := by
  have first (i : Nat) (hi : i < 4) : expandedWord k i = [k.w0, k.w1, k.w2, k.w3].getD i ⟨0, 0, 0, 0⟩ :=
    expandedWord_eq_getD k (n := 0) hi (by omega)
  rw [expandedBlock, first 0 (by omega), first (0 + 1) (by omega), first (0 + 2) (by omega), first (0 + 3) (by omega)]
  rfl

/-- One round of the expansion is four words of it (41_key_expansion R113). -/
theorem nextRoundKey_expandedBlock {j : Nat} (hj : j < 10) :
    nextRoundKey (expandedBlock k (4 * j)) (rcon (j + 1)) = expandedBlock k (4 * j + 4) := by
  have h1 := expandedWord_other k (n := 4 * j + 1) (by omega) (by omega)
  have h2 := expandedWord_other k (n := 4 * j + 2) (by omega) (by omega)
  have h3 := expandedWord_other k (n := 4 * j + 3) (by omega) (by omega)
  simp only [expandedBlock, nextRoundKey, Nat.add_assoc, Nat.reduceAdd] at h1 h2 h3 ⊢
  rw [← expandedWord_first k hj, ← h1, ← h2, ← h3]

theorem roundKey_eq_expandedBlock {j : Nat} (hj : j < 10) : roundKey k j = expandedBlock k (4 * j + 4) := by
  rw [← nextRoundKey_expandedBlock k hj]
  induction j with
  | zero => rw [Nat.mul_zero, expandedBlock_zero, roundKey]
  | succ j ih => rw [roundKey, ih (by omega), nextRoundKey_expandedBlock k (by omega), Nat.mul_succ]

end ExpandedWords

/-- Settles O48: the word recurrence read four words at a time, and by induction the schedule is these words. -/
theorem expansionByWords : Obligations.ExpansionByWords := by
  intro k word fourWords
  refine ⟨fun j => ⟨nextRoundKey_expandedBlock k j.isLt, ?_⟩, rfl, fun j => ?_⟩
  · exact (expandKey128_getElem k j).trans (roundKey_eq_expandedBlock k j.isLt)
  · have entry := expandKey128_getElem k j.castSucc
    exact (expandKey128_getElem k j.succ).trans (congrArg (nextRoundKey · (rcon (j.val + 2))) entry.symm)

end Sys2Proof.Machine

/-! The statements of 42_encrypt: the acceptance of a cipher command, the encryption iterations, and the run of an accepted
command through any number of iterations a core step (42_encrypt R122 to R129). What is said of both ciphers is said for
either mode. -/

namespace Sys2Proof.Machine

/-! ## The acceptance of a cipher command -/

section CipherCommand
variable {s : State} {m : Mode} {v : Block}

/-- The operand check asks for every word of DIN, KEY and RK (44_host_access R145). -/
theorem Chip.cipherReady_iff (c : Chip) : c.cipherReady = true ↔ (∀ k : Fin 4, c.din[k].isSome = true) ∧
    (∀ k : Fin 4, c.key[k].isSome = true) ∧ ∀ (j : Fin 10) (k : Fin 4), c.rk[j][k].isSome = true := by
  have schedule : c.scheduleWritten = true ↔ ∀ (j : Fin 10) (k : Fin 4), c.rk[j][k].isSome = true :=
    c.scheduleWritten_iff.trans (forall_congr' fun j => Reg.isWritten_iff c.rk[j])
  unfold Chip.cipherReady
  rw [Bool.and_eq_true, Bool.and_eq_true, c.din.isWritten_iff, c.key.isWritten_iff, schedule, and_assoc]
  rfl

theorem Chip.cipherReady_eq_false_of_none {c : Chip} {k : Fin 4}
    (h : c.din[k] = none ∨ c.key[k] = none ∨ ∃ j : Fin 10, c.rk[j][k] = none) : c.cipherReady = false := by
  rw [Bool.eq_false_iff]
  intro ready
  obtain ⟨din, key, rk⟩ := c.cipherReady_iff.mp ready
  obtain h | h | ⟨j, h⟩ := h
  · exact Option.isSome_iff_ne_none.mp (din k) h
  · exact Option.isSome_iff_ne_none.mp (key k) h
  · exact Option.isSome_iff_ne_none.mp (rk j k) h

theorem State.cipherCommand_of_unready (h : s.chip.cipherReady = false) : s.cipherCommand m = s.unwrittenFault :=
  if_neg (Bool.eq_false_iff.mp h)

theorem State.cipherCommand_of_ready (h : s.chip.cipherReady = true) (hv : s.chip.din.block? = some v) :
    s.cipherCommand m = (s.withChip ((s.chip.storeSt v).start m)).respondWritten := by
  rw [State.cipherCommand, if_pos h, hv]
  rfl

theorem State.changedTo_cipherCommand (hv : s.chip.din = .ofBlock v) (hk : ∀ k : Fin 4, s.chip.key[k].isSome = true)
    (hrk : ∀ (j : Fin 10) (k : Fin 4), s.chip.rk[j][k].isSome = true) :
    s.ChangedTo ((s.chip.storeSt v).start m) (s.cipherCommand m) := by
  have hd : ∀ k : Fin 4, s.chip.din[k].isSome = true := by
    rw [hv]
    exact (Reg.isWritten_iff _).mp (Reg.isWritten_ofBlock v)
  rw [State.cipherCommand_of_ready (s.chip.cipherReady_iff.mpr ⟨hd, hk, hrk⟩) (hv ▸ Reg.block?_ofBlock v)]
  exact State.changedTo_respondWritten _

theorem State.faultedTo_cipherCommand {k : Fin 4}
    (h : s.chip.din[k] = none ∨ s.chip.key[k] = none ∨ ∃ j : Fin 10, s.chip.rk[j][k] = none) :
    s.FaultedTo .unwritten (s.cipherCommand m) := by
  rw [State.cipherCommand_of_unready (Chip.cipherReady_eq_false_of_none h)]
  exact s.faultedTo_unwrittenFault

theorem exec_encrypt_idle (idle : s.chip.busy = false) : exec .encrypt s = .next (s.cipherCommand .encrypt) :=
  congrArg Host.Outcome.next (s.commandWhenIdle_idle _ idle)

theorem exec_encrypt_busy (busy : s.chip.busy = true) : exec .encrypt s = .next s.busyFault :=
  congrArg Host.Outcome.next (s.commandWhenIdle_busy _ busy)

end CipherCommand

/-- Settles O13: the operand check asks for every word of DIN, KEY and RK, and the busy check comes before it. -/
theorem encryptCommandResult : Obligations.EncryptCommandResult :=
  ⟨rfl, fun s => ⟨fun _ idle hv hk hrk => ⟨_, exec_encrypt_idle idle, State.changedTo_cipherCommand hv hk hrk⟩,
    fun idle ⟨_, unwritten⟩ => ⟨_, exec_encrypt_idle idle, State.faultedTo_cipherCommand unwritten⟩,
    fun busy => ⟨_, exec_encrypt_busy busy, s.faultedTo_busyFault⟩⟩⟩

/-! ## One iteration of an encryption

Iteration `j` adds KEY at 0 and RK[j-1] after it (42_encrypt R122), the values that the expansion's iterations start from, so
`Chip.expandSource?` names its key. -/

section EncryptIteration
variable {s : State} {v k k' : Block}

/-- `MC(AESE(v, k))`, what every iteration but the last makes of ST (42_encrypt R125, R126). -/
def encryptRound (v k : Block) : Block := mixColumns (aese v k)

theorem exec_encFirst (hst : s.chip.st = some v) (hk : s.chip.expandSource? 0 = some k) :
    exec .encFirst s = .next (s.withChip ((s.chip.storeSt (encryptRound v k)).setRnd 1)) := by
  have hk : s.chip.key.block? = some k := hk
  simp only [exec, execEncFirst, hst, hk]
  rfl

theorem exec_encMid {r : BitVec 4} (hr : 1 ≤ r.toNat ∧ r.toNat ≤ 8) (hst : s.chip.st = some v)
    (hk : s.chip.expandSource? ⟨r.toNat, by omega⟩ = some k) :
    exec (.encMid r) s = .next (s.withChip ((s.chip.storeSt (encryptRound v k)).setRnd (r + 1))) := by
  rw [s.chip.expandSource?_of_pos _ hr.1] at hk
  simp only [exec, execEncMid, dif_pos hr, hst, hk]
  rfl

theorem exec_encLast (hst : s.chip.st = some v) (hk : s.chip.expandSource? 9 = some k)
    (hk' : s.chip.roundKey? 9 = some k') : exec .encLast s =
      .next (s.withChip ((s.chip.storeSt ((aese v k).xor k')).storeDout ((aese v k).xor k')).complete) := by
  have hk : s.chip.roundKey? 8 = some k := hk
  simp only [exec, execEncLast, hst, hk, hk']
  rfl

end EncryptIteration

/-- Settles O18: each of the three meanings at written operands. -/
theorem encryptIterationResults : Obligations.EncryptIterationResults := by
  refine ⟨fun s v k hst hk => exec_encFirst hst hk, fun s r h1 h8 v k hst hk => ?_,
    fun s v k8 k9 hst hk8 hk9 => exec_encLast hst hk8 hk9⟩
  rw [exec_encMid ⟨h1, h8⟩ hst ((s.chip.expandSource?_of_pos _ h1).trans hk), add_one_eq_ofNat]
  rfl

/-! ## The run of a cipher command -/

section CipherRun
variable {s : State} {c : Chip} {st : Nat → Block} {v : Block} {n : Nat}

/-- The block of a running cipher that has made `n` iterations and holds `v` in ST. -/
def Chip.ciphering (c : Chip) (v : Block) (n : Nat) : Chip := { c with st := some v, rnd := BitVec.ofNat 4 n }

/-- The block that a cipher with the result `v` leaves. -/
def Chip.ciphered (c : Chip) (v : Block) : Chip :=
  { c with st := some v, dout := .ofBlock v, busy := false, mode := .idle, rnd := 0 }

/-- The block after `n` iterations of a cipher that puts `st n` into ST while it runs and has the result `v`. -/
def Chip.afterCipher (c : Chip) (st : Nat → Block) (v : Block) (n : Nat) : Chip :=
  if n < 10 then c.ciphering (st n) n else c.ciphered v

theorem Chip.afterCipher_of_lt (hn : n < 10) : c.afterCipher st v n = c.ciphering (st n) n := if_pos hn

theorem Chip.afterCipher_of_le (hn : 10 ≤ n) : c.afterCipher st v n = c.ciphered v := if_neg (Nat.not_lt.mpr hn)

theorem Chip.ciphering_zero (hr : c.rnd = 0) (hst : c.st = some v) : c.ciphering v 0 = c := by
  have hr : BitVec.ofNat 4 0 = c.rnd := hr.symm
  rw [Chip.ciphering, hr, ← hst]

theorem Chip.ciphering_rnd_toNat (hn : n < 10) : (c.ciphering v n).rnd.toNat = n :=
  (BitVec.toNat_ofNat n 4).trans (Nat.mod_eq_of_lt (by omega))

/-- A round moves a running cipher on by one iteration. -/
theorem Chip.ciphering_storeSt (hn : n < 10) (w : Block) :
    ((c.ciphering v n).storeSt w).setRnd ((c.ciphering v n).rnd + 1) = c.ciphering w (n + 1) := by
  rw [add_one_eq_ofNat, Chip.ciphering_rnd_toNat hn]
  rfl

theorem State.iterates_afterCipher (s : State) (hb : c.busy = true) (hm : c.mode ≠ .expand)
    (next : ∀ n < 10, exec (decodeMicroOp (c.ciphering (st n) n).uop) (s.withChip (c.ciphering (st n) n)) =
      .next (s.withChip (c.afterCipher st v (n + 1)))) : s.Iterates s.params.uSeq (c.afterCipher st v) where
  busy n hn := by rwa [Chip.afterCipher_of_lt hn]
  rnd n hn := by rw [Chip.afterCipher_of_lt hn, Chip.ciphering_rnd_toNat hn]
  perStep n hn := by
    rw [Chip.afterCipher_of_lt hn]
    exact if_neg hm
  next n hn := by
    rw [Chip.afterCipher_of_lt hn]
    exact next n hn
  done n hn := by rw [Chip.afterCipher_of_le hn, Chip.afterCipher_of_le le_rfl]

/-- An accepted cipher command ends in ceil(10 / U_SEQ) core steps with its result in ST and DOUT. -/
theorem State.cipher_run (ha : s.agenda = []) (hb : s.chip.busy = true) (hm : s.chip.mode ≠ .expand)
    (hr : s.chip.rnd = 0) (hst : s.chip.st = some (st 0))
    (next : ∀ n < 10, exec (decodeMicroOp (s.chip.ciphering (st n) n).uop) (s.withChip (s.chip.ciphering (st n) n)) =
      .next (s.withChip (s.chip.afterCipher st v (n + 1)))) :
    Sys2Proof.core.run ((10 + s.params.uSeq - 1) / s.params.uSeq) s = .next (s.withChip (s.chip.ciphered v)) := by
  have h0 : s.withChip (s.chip.afterCipher st v 0) = s := by
    rw [Chip.afterCipher_of_lt (by omega), Chip.ciphering_zero hr hst]
    rfl
  have run := (s.iterates_afterCipher hb hm next).run_ceil (Nat.le_add_left 1 _) ha
  rw [h0, Chip.afterCipher_of_le le_rfl] at run
  exact run

end CipherRun

/-! ## The run of ENCRYPT -/

section EncryptRun
variable {s : State} {c : Chip} {k p v kj k' : Block} {rk : Vector Block 10} {n : Nat}

/-- The key that iteration `j` of an encryption adds: KEY, and after it the schedule (42_encrypt R122). -/
def encryptKey (k : Block) (rk : Vector Block 10) : Fin 10 → Block
  | ⟨0, _⟩ => k
  | ⟨j + 1, h⟩ => rk[j]

/-- ST after `n` rounds of an encryption of `p`, for `n` up to 9 (42_encrypt R121). -/
def encryptRounds (k : Block) (rk : Vector Block 10) (p : Block) : Nat → Block
  | 0 => p
  | n + 1 => encryptRound (encryptRounds k rk p n) (encryptKey k rk (Fin.ofNat 10 n))

theorem encryptRounds_succ (hn : n < 10) :
    encryptRounds k rk p (n + 1) = encryptRound (encryptRounds k rk p n) (encryptKey k rk ⟨n, hn⟩) := by
  have index : Fin.ofNat 10 n = ⟨n, hn⟩ := Fin.ext (Nat.mod_eq_of_lt hn)
  rw [encryptRounds, index]

/-- The last iteration, after the nine rounds, is the last step of the algorithm (42_encrypt R121). -/
theorem encrypt128_eq_rounds : encrypt128 k rk p = (aese (encryptRounds k rk p 9) (encryptKey k rk 9)).xor rk[9] := rfl

theorem Chip.expandSource?_eq_encryptKey (hk : c.key.block? = some k) (hrk : ∀ j : Fin 10, c.rk[j].block? = some rk[j])
    (j : Fin 10) : c.expandSource? j = some (encryptKey k rk j) :=
  match j with
  | ⟨0, _⟩ => hk
  | ⟨i + 1, _⟩ => hrk ⟨i, by omega⟩

/-- What UOP selects during an ENCRYPT, at RND in 0..8 (42_encrypt R125, R126). -/
theorem exec_encryptIteration (hm : s.chip.mode = .encrypt) (h8 : s.chip.rnd.toNat ≤ 8) (hst : s.chip.st = some v)
    (hk : s.chip.expandSource? ⟨s.chip.rnd.toNat, by omega⟩ = some kj) : exec (decodeMicroOp s.chip.uop) s =
      .next (s.withChip ((s.chip.storeSt (encryptRound v kj)).setRnd (s.chip.rnd + 1))) := by
  rw [decodeMicroOp_uop, hm]
  by_cases h0 : s.chip.rnd = 0
  · simp only [h0] at hk ⊢
    exact exec_encFirst hst hk
  · have hr : 1 ≤ s.chip.rnd.toNat ∧ s.chip.rnd.toNat ≤ 8 := ⟨by bv_omega, h8⟩
    dsimp only
    rw [decodeRound_mid _ _ _ hr]
    exact exec_encMid hr hst hk

/-- And at RND = 9 (42_encrypt R127). -/
theorem exec_encryptCompletion (hm : s.chip.mode = .encrypt) (hr : s.chip.rnd = 9) (hst : s.chip.st = some v)
    (hk : s.chip.expandSource? 9 = some kj) (hk' : s.chip.roundKey? 9 = some k') : exec (decodeMicroOp s.chip.uop) s =
      .next (s.withChip ((s.chip.storeSt ((aese v kj).xor k')).storeDout ((aese v kj).xor k')).complete) := by
  rw [decodeMicroOp_uop, hm, hr]
  exact exec_encLast hst hk hk'

/-- Iteration `n` of an ENCRYPT takes the block to the next of its blocks (42_encrypt R122). -/
theorem exec_afterEncrypt (s : State) (hm : c.mode = .encrypt) (hk : c.key.block? = some k)
    (hrk : ∀ j : Fin 10, c.rk[j].block? = some rk[j]) (hn : n < 10) :
    exec (decodeMicroOp (c.ciphering (encryptRounds k rk p n) n).uop)
        (s.withChip (c.ciphering (encryptRounds k rk p n) n)) =
      .next (s.withChip (c.afterCipher (encryptRounds k rk p) (encrypt128 k rk p) (n + 1))) := by
  have key := Chip.expandSource?_eq_encryptKey hk hrk
  have hr : (c.ciphering (encryptRounds k rk p n) n).rnd.toNat = n := Chip.ciphering_rnd_toNat hn
  obtain h8 | rfl := Nat.lt_or_eq_of_le (Nat.le_of_lt_succ hn)
  · rw [Chip.afterCipher_of_lt (by omega), encryptRounds_succ hn, ← Chip.ciphering_storeSt hn]
    refine exec_encryptIteration (s := s.withChip (c.ciphering (encryptRounds k rk p n) n)) hm
      (hr.trans_le (Nat.le_of_lt_succ h8)) rfl ?_
    simp only [State.withChip_chip, hr]
    exact key ⟨n, hn⟩
  · rw [Chip.afterCipher_of_le (by omega), encrypt128_eq_rounds]
    exact exec_encryptCompletion (s := s.withChip (c.ciphering (encryptRounds k rk p 9) 9)) hm rfl rfl (key 9) (hrk 9)

end EncryptRun

/-- Settles O45: after `n` iterations ST has been through `n` rounds, and the tenth completes with the ciphertext. -/
theorem encryptRunWritesCiphertext : Obligations.EncryptRunWritesCiphertext := by
  intro s k p rk ha hb hm hr hst hk hrk
  exact State.cipher_run (st := encryptRounds k rk p) ha hb (by simp [hm]) hr hst fun n hn =>
    exec_afterEncrypt s hm hk hrk hn

end Sys2Proof.Machine

/-! The statements of 43_decrypt: the acceptance of DECRYPT, the decryption iterations, the run of an accepted command, that
the two ciphers undo each other, and with it the round trip of a buffer (43_decrypt R130 to R138, 44_host_access R154). -/

namespace Sys2Proof

/-- Adding a value twice gives back what it was added to. -/
@[simp] theorem Block.xor_xor_cancel_right (v k : Block) : (v.xor k).xor k = v := by
  simp [Block.xor, ByteWord.xor]

end Sys2Proof

namespace Sys2Proof.Machine

/-! ## DECRYPT's acceptance -/

theorem exec_decrypt_idle {s : State} (idle : s.chip.busy = false) :
    exec .decrypt s = .next (s.cipherCommand .decrypt) := congrArg Host.Outcome.next (s.commandWhenIdle_idle _ idle)

theorem exec_decrypt_busy {s : State} (busy : s.chip.busy = true) : exec .decrypt s = .next s.busyFault :=
  congrArg Host.Outcome.next (s.commandWhenIdle_busy _ busy)

/-- Settles O14: what the acceptance of a cipher command does, in DECRYPT's mode, and the busy check comes before it. -/
theorem decryptCommandResult : Obligations.DecryptCommandResult :=
  ⟨rfl, fun s => ⟨fun _ idle hv hk hrk => ⟨_, exec_decrypt_idle idle, State.changedTo_cipherCommand hv hk hrk⟩,
    fun idle ⟨_, unwritten⟩ => ⟨_, exec_decrypt_idle idle, State.faultedTo_cipherCommand unwritten⟩,
    fun busy => ⟨_, exec_decrypt_busy busy, s.faultedTo_busyFault⟩⟩⟩

/-! ## One iteration of a decryption -/

section DecryptIteration
variable {s : State} {v k k' : Block}

theorem exec_decFirst (hst : s.chip.st = some v) (hk : s.chip.roundKey? 9 = some k) :
    exec .decFirst s = .next (s.withChip ((s.chip.storeSt (aesd v k)).setRnd 1)) := by
  simp only [exec, execDecFirst, hst, hk]
  rfl

theorem exec_decMid {r : BitVec 4} (hr : 1 ≤ r.toNat ∧ r.toNat ≤ 8) (hst : s.chip.st = some v)
    (hk : s.chip.roundKey? ⟨9 - r.toNat, by omega⟩ = some k) :
    exec (.decMid r) s = .next (s.withChip ((s.chip.storeSt (decryptPass v k)).setRnd (r + 1))) := by
  simp only [exec, execDecMid, dif_pos hr, hst, hk]
  rfl

theorem exec_decLast (hst : s.chip.st = some v) (hk : s.chip.roundKey? 0 = some k) (hk' : s.chip.key.block? = some k') :
    exec .decLast s = .next (s.withChip
      ((s.chip.storeSt ((decryptPass v k).xor k')).storeDout ((decryptPass v k).xor k')).complete) := by
  simp only [exec, execDecLast, hst, hk, hk']
  rfl

end DecryptIteration

/-- Settles O19: each of the three meanings at written operands. -/
theorem decryptIterationResults : Obligations.DecryptIterationResults := by
  refine ⟨fun s v k9 hst hk9 => exec_decFirst hst hk9, fun s r h1 h8 v k hst hk => ?_,
    fun s v k0 k hst hk0 hk => exec_decLast hst hk0 hk⟩
  rw [exec_decMid ⟨h1, h8⟩ hst hk, add_one_eq_ofNat]
  rfl

/-! ## The run of DECRYPT -/

section DecryptRun
variable {s : State} {c : Chip} {k p v k' : Block} {rk : Vector Block 10} {n : Nat}

/-- What iteration `n` of a decryption makes of ST: the columns are mixed back from the second iteration on
(43_decrypt R130). -/
def decryptRound : Nat → Block → Block → Block
  | 0 => aesd
  | _ + 1 => decryptPass

/-- ST after `n` iterations of a decryption of `p`, which use the schedule from its end, but for the last addition of KEY
(43_decrypt R130). -/
def decryptRounds (rk : Vector Block 10) (p : Block) : Nat → Block
  | 0 => p
  | n + 1 => decryptRound n (decryptRounds rk p n) rk[9 - n]

theorem decrypt128_eq_rounds : decrypt128 k rk p = (decryptRounds rk p 10).xor k := rfl

/-- What UOP selects during a DECRYPT, at RND in 0..8 (43_decrypt R134, R135). -/
theorem exec_decryptIteration (hm : s.chip.mode = .decrypt) (hr : s.chip.rnd.toNat = n) (h8 : n ≤ 8)
    (hst : s.chip.st = some v) (hk : s.chip.roundKey? ⟨9 - n, by omega⟩ = some k) : exec (decodeMicroOp s.chip.uop) s =
      .next (s.withChip ((s.chip.storeSt (decryptRound n v k)).setRnd (s.chip.rnd + 1))) := by
  subst hr
  rw [decodeMicroOp_uop, hm]
  by_cases h0 : s.chip.rnd = 0
  · simp only [h0] at hk ⊢
    exact exec_decFirst hst hk
  · have hr : 1 ≤ s.chip.rnd.toNat ∧ s.chip.rnd.toNat ≤ 8 := ⟨by bv_omega, h8⟩
    obtain ⟨m, succ⟩ : ∃ m, s.chip.rnd.toNat = m + 1 := Nat.exists_eq_add_of_le' hr.1
    dsimp only
    rw [decodeRound_mid _ _ _ hr, exec_decMid hr hst hk, succ]
    rfl

/-- And at RND = 9 (43_decrypt R136). -/
theorem exec_decryptCompletion (hm : s.chip.mode = .decrypt) (hr : s.chip.rnd = 9) (hst : s.chip.st = some v)
    (hk : s.chip.roundKey? 0 = some k) (hk' : s.chip.key.block? = some k') : exec (decodeMicroOp s.chip.uop) s =
      .next (s.withChip ((s.chip.storeSt ((decryptPass v k).xor k')).storeDout ((decryptPass v k).xor k')).complete) := by
  rw [decodeMicroOp_uop, hm, hr]
  exact exec_decLast hst hk hk'

/-- Iteration `n` of a DECRYPT takes the block to the next of its blocks (43_decrypt R131). -/
theorem exec_afterDecrypt (s : State) (hm : c.mode = .decrypt) (hk : c.key.block? = some k)
    (hrk : ∀ j : Fin 10, c.rk[j].block? = some rk[j]) (hn : n < 10) :
    exec (decodeMicroOp (c.ciphering (decryptRounds rk p n) n).uop) (s.withChip (c.ciphering (decryptRounds rk p n) n)) =
      .next (s.withChip (c.afterCipher (decryptRounds rk p) (decrypt128 k rk p) (n + 1))) := by
  have hr : (c.ciphering (decryptRounds rk p n) n).rnd.toNat = n := Chip.ciphering_rnd_toNat hn
  obtain h8 | rfl := Nat.lt_or_eq_of_le (Nat.le_of_lt_succ hn)
  · rw [Chip.afterCipher_of_lt (by omega), ← Chip.ciphering_storeSt hn]
    exact exec_decryptIteration (s := s.withChip (c.ciphering (decryptRounds rk p n) n)) hm hr (Nat.le_of_lt_succ h8) rfl
      (hrk ⟨9 - n, by omega⟩)
  · rw [Chip.afterCipher_of_le (by omega), decrypt128_eq_rounds]
    exact exec_decryptCompletion (s := s.withChip (c.ciphering (decryptRounds rk p 9) 9)) hm rfl rfl (hrk 0) hk

end DecryptRun

/-- Settles O46: after `n` iterations ST has been through `n` rounds, and the tenth completes with the plaintext. -/
theorem decryptRunWritesPlaintext : Obligations.DecryptRunWritesPlaintext := by
  intro s k c rk ha hb hm hr hst hk hrk
  exact State.cipher_run (st := decryptRounds rk c) ha hb (by simp [hm]) hr hst fun n hn =>
    exec_afterDecrypt s hm hk hrk hn

/-! ## The ciphers undo each other

A round of one cipher undoes a round of the other up to the keys around it: what comes out is the other round's input, with
its key still added. -/

section RoundInverses
variable (v k k' : Block)

theorem aesd_aese : aesd ((aese v k).xor k') k' = v.xor k := by
  simp [aesd, aese]

theorem aese_aesd : aese ((aesd v k).xor k') k' = v.xor k := by
  simp [aesd, aese]

theorem decryptPass_mixColumns_aese : decryptPass ((mixColumns (aese v k)).xor k') k' = v.xor k := by
  rw [decryptPass, aesd_invMixColumns]
  simp [aese]

theorem mixColumns_aese_decryptPass : mixColumns (aese ((decryptPass v k).xor k') k') = v.xor k := by
  rw [decryptPass, aesd_invMixColumns]
  simp [aese]

end RoundInverses

section CipherInverses
variable (k : Block) (rk : Vector Block 10) (p : Block)

@[simp] theorem decrypt128_encrypt128 : decrypt128 k rk (encrypt128 k rk p) = p := by
  simp only [decrypt128, encrypt128, aesd_aese, decryptPass_mixColumns_aese, Block.xor_xor_cancel_right]

@[simp] theorem encrypt128_decrypt128 : encrypt128 k rk (decrypt128 k rk p) = p := by
  simp only [decrypt128, encrypt128, aese_aesd, mixColumns_aese_decryptPass, Block.xor_xor_cancel_right]

end CipherInverses

/-- Settles O47: round by round from the inside, each undoes the other. -/
theorem decryptInvertsEncrypt : Obligations.DecryptInvertsEncrypt := fun k rk p =>
  ⟨decrypt128_encrypt128 k rk p, encrypt128_decrypt128 k rk p⟩

/-! ## Buffers as blocks -/

section Buffers
variable {bs : List Byte} {n : Nat}

@[simp] theorem length_bytesOfBlock (v : Block) : (bytesOfBlock v).length = 16 := rfl

@[simp] theorem blockOfBytes_bytesOfBlock (v : Block) : blockOfBytes (bytesOfBlock v) = v := rfl

theorem bytesOfBlock_blockOfBytes (h : bs.length = 16) : bytesOfBlock (blockOfBytes bs) = bs :=
  match bs, h with
  | [_, _, _, _, _, _, _, _, _, _, _, _, _, _, _, _], _ => rfl

theorem length_of_mem_sixteens (h : bs.length = 16 * n) {b : List Byte} (hb : b ∈ sixteens n bs) : b.length = 16 := by
  induction n generalizing bs with
  | zero => cases hb
  | succ n ih =>
    obtain rfl | hb := List.mem_cons.mp hb
    · simp [h]
    · exact ih (by simp [h]; omega) hb

theorem flatten_sixteens (h : bs.length = 16 * n) : (sixteens n bs).flatten = bs := by
  induction n generalizing bs with
  | zero => exact (List.length_eq_zero_iff.mp h).symm
  | succ n ih => rw [sixteens, List.flatten_cons, ih (by simp [h]; omega), List.take_append_drop]

theorem length_of_mem_blocksOfBytes (h : bs.length % 16 = 0) {b : List Byte} (hb : b ∈ blocksOfBytes bs) :
    b.length = 16 := length_of_mem_sixteens (Nat.mul_div_cancel' (Nat.dvd_of_mod_eq_zero h)).symm hb

theorem flatten_blocksOfBytes (h : bs.length % 16 = 0) : (blocksOfBytes bs).flatten = bs :=
  flatten_sixteens (Nat.mul_div_cancel' (Nat.dvd_of_mod_eq_zero h)).symm

theorem blocksOfBytes_append {b : List Byte} (h : b.length = 16) (bs : List Byte) :
    blocksOfBytes (b ++ bs) = b :: blocksOfBytes bs := by
  have count : (b ++ bs).length / 16 = bs.length / 16 + 1 := by
    rw [List.length_append, h]
    omega
  rw [blocksOfBytes, count, sixteens, List.take_left' h, List.drop_left' h, blocksOfBytes]

/-- A buffer put together from blocks has these blocks. -/
theorem blocksOfBytes_flatMap {α : Type} {f : α → List Byte} (h : ∀ a, (f a).length = 16) (l : List α) :
    blocksOfBytes (l.flatMap f) = l.map f := by
  induction l with
  | nil => simp [blocksOfBytes, sixteens]
  | cons a l ih => rw [List.flatMap_cons, blocksOfBytes_append (h a), ih, List.map_cons]

end Buffers

/-- Settles O60: the blocks of the encrypted buffer are the encrypted blocks, and each decrypts to the block it came from. -/
theorem bufferRoundTrip : Obligations.BufferRoundTrip := by
  intro key sched input h
  have block : ∀ b ∈ blocksOfBytes input, bytesOfBlock (blockOfBytes b) = b := fun b hb =>
    bytesOfBlock_blockOfBytes (length_of_mem_blocksOfBytes h hb)
  calc decryptBuffer key sched (encryptBuffer key sched input)
      = (blocksOfBytes input).flatMap fun b => bytesOfBlock (blockOfBytes b) := by
        rw [decryptBuffer, encryptBuffer, blocksOfBytes_flatMap fun _ => length_bytesOfBlock _]
        simp [List.flatMap_map]
    _ = (blocksOfBytes input).flatten := by
        rw [List.flatMap_def, List.map_congr_left block, List.map_id']
    _ = input := flatten_blocksOfBytes h

end Sys2Proof.Machine

/-! The statements of 44_host_access about the core, the commands and the driver's checks: the operands of the command in
progress, the core step, the commands that start nothing, and the driver's errors (44_host_access R142 to R149, R155). -/

namespace Sys2Proof.Machine

/-! ## The operands of the command in progress -/

section OperandsHeld
variable {c c' : Chip}

/-- The statement speaks of KEY, RK, MODE and RND alone. -/
theorem Chip.OperandsHeld.of_eq (h : c.OperandsHeld) (hkey : c'.key = c.key) (hrk : c'.rk = c.rk) (hmode : c'.mode = c.mode)
    (hrnd : c'.rnd = c.rnd) : c'.OperandsHeld := by
  unfold Chip.OperandsHeld Chip.roundKey? Chip.scheduleWritten
  rwa [hkey, hrk, hmode, hrnd]

/-- An EXPAND that starts has no round key to read yet. -/
theorem Chip.operandsHeld_start_expand (key : c.key.isWritten = true) : (c.start .expand).OperandsHeld :=
  ⟨fun _ => key, fun _ _ hj => absurd hj (Nat.not_lt_zero _), by rintro (h | h) <;> cases h⟩

theorem Chip.operandsHeld_start_cipher {m : Mode} (hm : m ≠ .expand) (key : c.key.isWritten = true)
    (schedule : c.scheduleWritten = true) : (c.start m).OperandsHeld :=
  ⟨fun _ => key, fun h => absurd h hm, fun _ => schedule⟩

theorem Chip.OperandsHeld.accessed {v : HostWord} (hs : c.SequencerOk) (h : c.OperandsHeld) (ha : c.Accessed v c') :
    c'.OperandsHeld := by
  cases ha with
  | unchanged | cleared => exact h
  | rejected => exact h.of_eq (by simp) (by simp) (by simp) (by simp)
  | expandStarted _ key => exact Chip.operandsHeld_start_expand key
  | cipherStarted _ cipher _ key schedule =>
    exact Chip.operandsHeld_start_cipher (by rintro rfl; simp at cipher) key schedule
  | stored idle => exact Chip.operandsHeld_of_idle ((c.writeWord_mode _ _).trans (hs.mode_of_idle idle))

/-- An iteration of a running EXPAND adds the one round key that the next iteration reads besides. -/
theorem Chip.OperandsHeld.storeRoundKey_next {r : BitVec 4} (h : c.OperandsHeld) (hm : c.mode = .expand)
    (hr : c.rnd.toNat = r.toNat) (h8 : r.toNat ≤ 8) (v : Block) :
    ((c.storeRoundKey ⟨r.toNat, by omega⟩ v).setRnd (r + 1)).OperandsHeld := by
  obtain ⟨key, held, -⟩ := h
  refine ⟨key, fun _ j hj => ?_, ?_⟩
  · rw [Chip.setRnd_rnd, toNat_add_one_of_le_eight h8] at hj
    have stored := c.roundKey?_storeRoundKey j ⟨r.toNat, by omega⟩ v
    change ((c.storeRoundKey _ v).roundKey? j).isSome = true
    rw [stored]
    split
    · rfl
    · next hne => exact held hm j (lt_of_le_of_ne (by omega) fun e => hne (Fin.ext (e.trans hr)))
  · intro hc
    rw [Chip.setRnd_mode, Chip.storeRoundKey_mode, hm] at hc
    rcases hc with hc | hc <;> cases hc

theorem Chip.OperandsHeld.iterated (h : c.OperandsHeld) (hi : c.Iterated (decodeMicroOp c.uop) c') : c'.OperandsHeld := by
  cases hi with
  | unchanged => exact h
  | expandRound mode iteration h8 =>
    exact h.storeRoundKey_next (decodeMicroOp_uop_mode mode) (decodeMicroOp_uop_iteration iteration) h8 _
  | cipherRound mode cipher =>
    obtain ⟨key, -, schedule⟩ := h
    exact ⟨key, fun hm => absurd ((decodeMicroOp_uop_mode mode).symm.trans hm) cipher, schedule⟩
  | expandDone | cipherDone => exact Chip.operandsHeld_of_idle rfl

/-- What the core's next iteration reads of KEY and RK has a value: for the expansion only up to RND. -/
theorem Chip.OperandsHeld.exists_source (h : c.OperandsHeld) (hm : c.mode ≠ .idle) (j : Fin 10)
    (hj : c.mode = .expand → j.val ≤ c.rnd.toNat) : ∃ p, c.expandSource? j = some p := by
  obtain ⟨key, held, schedule⟩ := h
  rw [← Option.isSome_iff_exists]
  match j with
  | ⟨0, _⟩ => exact key hm
  | ⟨i + 1, hi⟩ =>
    cases hmode : c.mode with
    | idle => exact absurd hmode hm
    | expand => exact held hmode ⟨i, by omega⟩ (hj hmode)
    | encrypt => exact c.scheduleWritten_iff.mp (schedule (.inl hmode)) ⟨i, by omega⟩
    | decrypt => exact c.scheduleWritten_iff.mp (schedule (.inr hmode)) ⟨i, by omega⟩

/-- During a cipher every round key has a value. -/
theorem Chip.OperandsHeld.exists_roundKey (h : c.OperandsHeld) (hm : c.mode = .encrypt ∨ c.mode = .decrypt) (j : Fin 10) :
    ∃ k, c.roundKey? j = some k := by
  obtain ⟨-, -, schedule⟩ := h
  exact Option.isSome_iff_exists.mp (c.scheduleWritten_iff.mp (schedule hm) j)

end OperandsHeld

/-- Settles O41, with the sequencer's invariants carried along: it is BUSY that keeps a host's writes from the operands of a
running command. -/
theorem stepKeepsOperandsWritten : Obligations.StepKeepsOperandsWritten := by
  intro s t hs ho h
  refine (step_keeps_chip (fun c => c.SequencerOk ∧ c.OperandsHeld)
    ⟨Chip.sequencerOk_reset, Chip.operandsHeld_of_idle rfl⟩ ?_ ?_ s t ⟨hs, ho⟩ h).2
  · exact fun c v c' ha ⟨hs, ho⟩ => ⟨hs.accessed ha, ho.accessed hs ha⟩
  · exact fun c c' hi ⟨hs, ho⟩ => ⟨hs.iterated hi, ho.iterated hi⟩

/-! ## A core step -/

/-- `c.MovedOn n c'`: `n` iterations of the command that runs in `c` have moved RND on, or have completed the command
(44_host_access R149). -/
def Chip.MovedOn (c : Chip) (n : Nat) (c' : Chip) : Prop :=
  (10 ≤ c.rnd.toNat + n → c'.busy = false ∧ c'.mode = .idle ∧ c'.rnd = 0) ∧
    (c.rnd.toNat + n < 10 → c'.busy = true ∧ c'.mode = c.mode ∧ c'.rnd.toNat = c.rnd.toNat + n)

section CoreStep
variable {s : State} {c c' : Chip} {n : Nat}

theorem Chip.movedOn_round {d : Chip} (busy : d.busy = true) (mode : d.mode = c.mode) (h8 : c.rnd.toNat ≤ 8) :
    c.MovedOn 1 (d.setRnd (c.rnd + 1)) :=
  ⟨fun h => by omega, fun _ => ⟨busy, mode, toNat_add_one_of_le_eight h8⟩⟩

theorem Chip.movedOn_complete {d : Chip} (h9 : c.rnd = 9) : c.MovedOn 1 d.complete := by
  refine ⟨fun _ => ⟨rfl, rfl, rfl⟩, fun h => absurd h ?_⟩
  rw [h9]
  decide

/-- With its operands written, the micro-operation that UOP selects is an iteration and nothing else. -/
theorem exists_iteration (hs : s.chip.SequencerOk) (ho : s.chip.OperandsHeld) (busy : s.chip.busy = true) :
    ∃ c', exec (decodeMicroOp s.chip.uop) s = .next (s.withChip c') ∧ s.chip.MovedOn 1 c' := by
  obtain ⟨hbusy, -, hrnd, hst⟩ := hs
  have hm := hbusy.mp busy
  have h9 := hrnd hm
  have last (h : ¬s.chip.rnd.toNat ≤ 8) : s.chip.rnd = 9 := by bv_omega
  obtain ⟨p, hp⟩ := ho.exists_source hm ⟨s.chip.rnd.toNat, by omega⟩ fun _ => le_rfl
  cases hmode : s.chip.mode with
  | idle => exact absurd hmode hm
  | expand =>
    by_cases h8 : s.chip.rnd.toNat ≤ 8
    · exact ⟨_, exec_expandIteration hmode rfl h8 hp, Chip.movedOn_round busy rfl h8⟩
    · simp only [last h8] at hp
      exact ⟨_, exec_expandCompletion hmode (last h8) hp, Chip.movedOn_complete (last h8)⟩
  | encrypt =>
    obtain ⟨v, hv⟩ := Option.isSome_iff_exists.mp (hst (.inl hmode))
    obtain ⟨k, hk⟩ := ho.exists_roundKey (.inl hmode) 9
    by_cases h8 : s.chip.rnd.toNat ≤ 8
    · exact ⟨_, exec_encryptIteration hmode h8 hv hp, Chip.movedOn_round busy rfl h8⟩
    · simp only [last h8] at hp
      exact ⟨_, exec_encryptCompletion hmode (last h8) hv hp hk, Chip.movedOn_complete (last h8)⟩
  | decrypt =>
    obtain ⟨v, hv⟩ := Option.isSome_iff_exists.mp (hst (.inr hmode))
    obtain ⟨k, hk⟩ := ho.exists_source hm 0 fun _ => Nat.zero_le _
    by_cases h8 : s.chip.rnd.toNat ≤ 8
    · obtain ⟨kj, hkj⟩ := ho.exists_roundKey (.inr hmode) ⟨9 - s.chip.rnd.toNat, by omega⟩
      exact ⟨_, exec_decryptIteration hmode rfl h8 hv hkj, Chip.movedOn_round busy rfl h8⟩
    · obtain ⟨k0, hk0⟩ := ho.exists_roundKey (.inr hmode) 0
      exact ⟨_, exec_decryptCompletion hmode (last h8) hv hk0 hk, Chip.movedOn_complete (last h8)⟩

/-- As long as no iteration is asked for after the completing one, each finds its operands written. -/
theorem exists_coreIterations (n : Nat) (s : State) (hs : s.chip.SequencerOk) (ho : s.chip.OperandsHeld)
    (busy : s.chip.busy = true) (hn : s.chip.rnd.toNat + (n + 1) ≤ 10) :
    ∃ c', coreIterations (n + 1) s = .next (s.withChip c') ∧ s.chip.MovedOn (n + 1) c' := by
  induction n generalizing s with
  | zero => simpa only [Nat.zero_add, coreIterations_one] using exists_iteration hs ho busy
  | succ n ih =>
    obtain ⟨c, hc, -, running⟩ := exists_iteration hs ho busy
    obtain ⟨busy', hmode, hrnd⟩ := running (by omega)
    have it := exec_iterated _ s _ (decodeMicroOp_bitLength _) hc
    obtain ⟨c', hc', done', running'⟩ := ih (s.withChip c) (hs.iterated it) (ho.iterated it) busy'
      (by rw [State.withChip_chip]; omega)
    refine ⟨c', (coreIterations_succ _ _ _ hc).trans hc', fun h => done' ?_, fun h => ?_⟩
    · rw [State.withChip_chip]
      omega
    · obtain ⟨hb, hm, hr⟩ := running' (by rw [State.withChip_chip]; omega)
      rw [State.withChip_chip] at hm hr
      exact ⟨hb, hm.trans hmode, by omega⟩

/-- The iterations that one core step makes, at RND in 0..9: `u` of them, or as many as are left (44_host_access R149). -/
theorem State.stepIterations_eq {u : Nat} (hu : (if s.chip.mode = .expand then s.params.uExp else s.params.uSeq) = u)
    (h1 : 1 ≤ u) (h9 : s.chip.rnd.toNat ≤ 9) : s.stepIterations = min u (10 - s.chip.rnd.toNat) := by
  rw [State.stepIterations, hu]
  omega

theorem one_le_perStep (p : Params) (m : Mode) : 1 ≤ if m = .expand then p.uExp else p.uSeq := by
  split <;> exact Nat.le_add_left 1 _

end CoreStep

/-- Settles O42: a core step makes U iterations, or as many as are left, and all find their operands written. -/
theorem coreStepHasNoException : Obligations.CoreStepHasNoException := by
  intro s hs ho busy he
  have h1 : 1 ≤ if s.chip.mode = .expand then s.params.uExp else s.params.uSeq := one_le_perStep s.params s.chip.mode
  generalize hu : (if s.chip.mode = .expand then s.params.uExp else s.params.uSeq) = u at h1
  obtain ⟨hbusy, -, hrnd, -⟩ := id hs
  have count := State.stepIterations_eq (s := s.popEvent) hu h1 (hrnd (hbusy.mp busy))
  obtain ⟨n, hn⟩ : ∃ n, s.popEvent.stepIterations = n + 1 := Nat.exists_eq_add_of_le' (Nat.le_max_left 1 _)
  rw [hn, State.popEvent_chip] at count
  obtain ⟨c', hc', done, running⟩ := exists_coreIterations n s.popEvent hs ho busy (by rw [State.popEvent_chip]; omega)
  rw [State.popEvent_chip] at done running
  refine ⟨s.popEvent.withChip c', ?_, rfl, rfl, fun h => done (by omega), fun h => ?_⟩
  · rw [step_of_core s he, coreStep, State.popEvent_chip, if_pos busy, hn, hc']
  · have hun : u = n + 1 := by omega
    rw [hun] at h ⊢
    exact running h

/-! ## The commands that start nothing -/

section IdleCommands
variable {s : State}

theorem Chip.setError_eq (c : Chip) (code : BitVec 4) :
    c.setError code = { c with err := if c.err = 0 then code else c.err } := by
  unfold Chip.setError
  split <;> rfl

/-- A rejected command word writes ERR by the rule of its code and nothing else (60_exceptions R159), and at a busy block it
is F_BUSY like any other. -/
theorem rejected_result {i : Instr} {code : BitVec 4} (h : exec i s = .next (s.commandWhenIdle (·.reject code))) :
    (s.chip.busy = false → ∃ t, exec i s = .next t ∧
      s.ChangedTo { s.chip with err := if s.chip.err = 0 then code else s.chip.err } t) ∧
    (s.chip.busy = true → ∃ t, exec i s = .next t ∧ s.FaultedTo .busy t) := by
  refine ⟨fun idle => ⟨s.reject code, ?_, ?_⟩, fun busy => ⟨s.busyFault, ?_, s.faultedTo_busyFault⟩⟩
  · rw [h, s.commandWhenIdle_idle _ idle]
  · rw [← Chip.setError_eq]
    exact State.changedTo_respondWritten _
  · rw [h, s.commandWhenIdle_busy _ busy]

end IdleCommands

/-- Settles O9: CLEAR's effect is the one assignment to ERR, after the busy check. -/
theorem clearCommandResult : Obligations.ClearCommandResult :=
  ⟨rfl, fun s =>
    ⟨fun idle => ⟨_, congrArg Host.Outcome.next (s.commandWhenIdle_idle _ idle),
        State.changedTo_respondWritten s.chip.clearErr⟩,
      fun busy => ⟨_, congrArg Host.Outcome.next (s.commandWhenIdle_busy _ busy), s.faultedTo_busyFault⟩⟩⟩

/-- Settles O10: such a word decodes to ILLEGAL_CMD, which is a rejection. -/
theorem reservedCommandResult : Obligations.ReservedCommandResult := by
  intro v s h4 h16
  obtain ⟨-, code, -⟩ := commandDecodingHasSixOutcomes v
  rw [code ⟨h4, h16⟩]
  exact rejected_result rfl

/-- Settles O11: such a word decodes to RSVD_BITS, which is a rejection. -/
theorem reservedBitsResult : Obligations.ReservedBitsResult := by
  intro v s hr
  rw [decodeCommand_of_rsvd hr]
  exact rejected_result rfl

/-! ## The driver's errors, and the empty output -/

section Plans
variable (cmd : HostWord) {key : List Byte} (sched : List (List Byte)) {input : List Byte}

theorem issueLine_call_of_done {c : DriverCall} {r : DriverResult} (rest : List HostLine) (s : State)
    (hc : planCall c = .done r) : issueLine (.call c) rest s =
      .next (s.withHost { s.host with script := rest, results := s.host.results ++ [r] }) := by
  simp [issueLine, hc]

theorem planExpandKey_of_keyLength (hk : key.length ≠ 16) : planExpandKey key = .done (.error .invalidKeyLength) :=
  if_pos hk

theorem planCipher_of_keyLength (hk : key.length ≠ 16) :
    planCipher cmd key sched 10 input = .done (.error .invalidKeyLength) := by
  simp [planCipher, hk]

theorem planCipher_of_inputLength (hk : key.length = 16) (hi : input.length % 16 ≠ 0) :
    planCipher cmd key sched 10 input = .done (.error .invalidLength) := by
  simp [planCipher, hk, hi]

theorem planCipher_of_empty {sched : List (List Byte)} (hk : key.length = 16) (hs : scheduleShape sched = true) :
    planCipher cmd key sched 10 [] = .done (.bytes []) := by
  simp [planCipher, hk, hs]

end Plans

/-- Settles O56: in each case the plan of the call is its result. -/
theorem driverErrorsTouchNoBlock : Obligations.DriverErrorsTouchNoBlock := by
  intro s c rest key sched input he hh hs
  have result {r : DriverResult} (hc : planCall c = .done r) : step s =
      .next (s.popEvent.withHost { s.host with script := rest, results := s.host.results ++ [r] }) :=
    (step_of_host_line s _ rest he hh hs).trans (issueLine_call_of_done rest s.popEvent hc)
  refine ⟨fun h => result ?_, fun h hk hi => result ?_, fun h hk hshape => result ?_⟩
  · obtain ⟨rfl, hk⟩ | ⟨rfl | rfl, hk⟩ := h
    · exact planExpandKey_of_keyLength hk
    · exact planCipher_of_keyLength 2 sched hk
    · exact planCipher_of_keyLength 3 sched hk
  · obtain rfl | rfl := h
    · exact planCipher_of_inputLength 2 sched hk hi
    · exact planCipher_of_inputLength 3 sched hk hi
  · obtain rfl | rfl := h
    · exact planCipher_of_empty 2 hk hshape
    · exact planCipher_of_empty 3 hk hshape

end Sys2Proof.Machine

/-! The driver's calls, run to their end on an idle block: what each line of their scripts makes of the block and of the
driver's output, the lines put together, and the two statements (44_host_access R150 to R154). -/

namespace Sys2Proof.Machine

/-! ## Runs up to what the driver does not read -/

theorem core_run_add {m n : Nat} {s t : State} (h : Sys2Proof.core.run m s = .next t) :
    Sys2Proof.core.run (m + n) s = Sys2Proof.core.run n t := by
  induction m generalizing s with
  | zero =>
    cases h
    rw [Nat.zero_add]
  | succ m ih =>
    rw [Nat.succ_add]
    simp only [Host.Core.run] at h ⊢
    split at h
    · exact ih h
    · cases h
    · cases h

/-- `s` with another response at the port and other variables of the host. No line of the driver reads either: a line looks
at the response to its own access alone, and of the variables WAIT's `s` is assigned and none is read. -/
def State.varied (s : State) (rsp : Option Response) (vars : List (HostVar × HostWord)) : State :=
  { s with rsp := rsp, host := { s.host with vars := vars } }

/-- `t` is `s` but for the response port and the host's variables. -/
def State.Like (s t : State) : Prop := ∃ rsp vars, t = s.varied rsp vars

/-- Some number of steps leads from any state like `s` to one like `t`. -/
def State.Leads (s t : State) : Prop := ∀ u, s.Like u → ∃ n v, Sys2Proof.core.run n u = .next v ∧ t.Like v

section Leads
variable {s t u : State}

theorem State.like_self (s : State) : s.Like s := ⟨s.rsp, s.host.vars, rfl⟩

theorem State.Leads.refl (s : State) : s.Leads s := fun u hu => ⟨0, u, rfl, hu⟩

theorem State.Leads.trans (h : s.Leads t) (h' : t.Leads u) : s.Leads u := by
  intro s' hs
  obtain ⟨n, t', hn, ht⟩ := h s' hs
  obtain ⟨m, u', hm, hu⟩ := h' t' ht
  exact ⟨n + m, u', (core_run_add hn).trans hm, hu⟩

theorem State.leads_of_step (h : ∀ u, s.Like u → ∃ v, step u = .next v ∧ t.Like v) : s.Leads t := by
  intro u hu
  obtain ⟨v, hv, ht⟩ := h u hu
  have hv : Sys2Proof.core.step u = .next v := hv
  exact ⟨1, v, by simp only [Host.Core.run, hv], ht⟩

/-- A state that differs as a `ChangedTo` says is known up to its response. -/
theorem State.ChangedTo.exists_eq {c : Chip} (h : s.ChangedTo c t) : ∃ r, t = { s with chip := c, rsp := r } := by
  obtain ⟨hc, hf, hr, hp, hh, ha⟩ := h
  cases t
  cases hc; cases hf; cases hr; cases hp; cases hh; cases ha
  exact ⟨_, rfl⟩

end Leads

/-! ## One line of the driver's script -/

/-- `s` with the block `c` and the host at `lines`, with `out` in its output buffer. -/
def State.driven (s : State) (lines : List HostLine) (c : Chip) (out : List Byte) (waiting : Bool) : State :=
  { s with chip := c, host := { s.host with script := lines, out := out, waiting := waiting } }

/-- `s` with one more result of a driver call. -/
def State.returning (s : State) (r : DriverResult) : State :=
  s.withHost { s.host with results := s.host.results ++ [r] }

/-- The host has not stopped, and no event is to come but its own and the core's. -/
structure State.Serving (s : State) : Prop where
  agenda : s.agenda = []
  going : s.host.halted = false

section Lines
variable {s : State} {c c' : Chip} {out : List Byte} {w : Bool} {off : BitVec 8} {l : Location}

/-- At an idle block the next step is the host's next line. -/
theorem State.leads_line {line : HostLine} {rest : List HostLine} {t : State} (hs : s.Serving) (idle : c.busy = false)
    (issue : ∀ u, (s.driven (line :: rest) c out w).Like u → ∃ v, issueLine line rest u = .next v ∧ t.Like v) :
    (s.driven (line :: rest) c out w).Leads t := by
  obtain ⟨ha, hh⟩ := hs
  refine State.leads_of_step fun u hu => ?_
  have ⟨next, halted, script, pop⟩ : u.nextEvent = .host ∧ u.host.halted = false ∧ u.host.script = line :: rest ∧
      u.popEvent = u := by
    obtain ⟨rsp, vars, rfl⟩ := hu
    exact ⟨by simp [State.nextEvent, State.driven, State.varied, ha, idle], hh, rfl,
      by simp [State.popEvent, State.driven, State.varied, ha]⟩
  rw [step_of_host_line u line rest next halted script, pop]
  exact issue u hu

theorem issueLine_wr32_of_ok {t : State} {x : HostWord} (rest : List HostLine)
    (ht : portAccess ⟨.write, off, 4, x⟩ s = .next t) (hok : t.rsp = some ⟨none, false⟩) :
    issueLine (.wr32 off (.lit x)) rest s =
      .next (t.withHost (HostAgent.afterWrite { s.host with script := rest } off x)) := by
  simp only [issueLine, HostAgent.value?, ht]
  exact hostContinue_of_ok _ hok

theorem State.leads_store (hs : s.Serving) (idle : c.busy = false) (hl : locate off = l ∧ badAccess off 4 = false)
    (hw : l.isWritable = true) (x : HostWord) (rest : List HostLine) :
    (s.driven (.wr32 off (.lit x) :: rest) c out w).Leads (s.driven rest (c.writeWord x l) out w) := by
  obtain ⟨hl, hb⟩ := hl
  have ho : off ≠ 0 := by
    rintro rfl
    subst hl
    cases hw
  refine State.leads_line hs idle ?_
  rintro _ ⟨rsp, vars, rfl⟩
  obtain ⟨t, ht, hok, hc⟩ := exec_wr32_of_writable
    ((s.driven (.wr32 off (.lit x) :: rest) c out w).varied rsp vars) x idle hb hl hw
  obtain ⟨r, rfl⟩ := hc.exists_eq
  have hp := (congrArg (exec · _) (decodeTransaction_write_of_ne 4 x ho)).trans ht
  refine ⟨_, issueLine_wr32_of_ok rest hp hok, ?_⟩
  rw [HostAgent.afterWrite_of_ne _ _ _ ho]
  exact ⟨_, _, rfl⟩

theorem State.leads_rdOut {x : HostWord} (hs : s.Serving) (idle : c.busy = false)
    (hl : locate off = l ∧ badAccess off 4 = false) (hd : c.dataWord? l = some (some x)) (rest : List HostLine) :
    (s.driven (.rdOut off :: rest) c out w).Leads (s.driven rest c (out ++ bytesOfWord x) w) := by
  obtain ⟨rfl, hb⟩ := hl
  have ho : off ≠ 0x04 := by
    rintro rfl
    cases hd
  refine State.leads_line hs idle ?_
  rintro _ ⟨rsp, vars, rfl⟩
  obtain ⟨t, ht, hok, hc⟩ := exec_rd32_of_written
    ((s.driven (.rdOut off :: rest) c out w).varied rsp vars) x hb idle hd
  obtain ⟨r, rfl⟩ := hc.exists_eq
  refine ⟨_, hostReadLine_of_ok _ ht hok, ?_⟩
  rw [HostAgent.afterRead_of_ne _ _ _ ho]
  exact ⟨_, _, rfl⟩

theorem HostAgent.afterWrite_command (h : HostAgent) {x : HostWord} (hx : 1 ≤ x.toNat ∧ x.toNat ≤ 3) :
    h.afterWrite 0 x = { h with waiting := true } :=
  congrArg (fun b => { h with waiting := b }) (h.afterWrite_waiting x hx.1 hx.2)

/-- A poll that reads BUSY = 0 leaves the WAIT, and ends the host's waiting. -/
theorem HostAgent.afterPoll_idle (h : HostAgent) (rest : List HostLine) {x : HostWord} (hx : x.getLsbD 0 = false) :
    (h.afterPoll rest x).afterRead 0x04 x = { h with script := rest, vars := assignVar .s x h.vars, waiting := false } := by
  rw [HostAgent.afterRead, HostAgent.afterPoll, hx]
  simp [HostAgent.assign]

/-- A command that is accepted with the block `c'` leaves the host waiting (44_host_access R150). -/
theorem State.leads_command {x : HostWord} (hs : s.Serving) (idle : c.busy = false) (hx : 1 ≤ x.toNat ∧ x.toNat ≤ 3)
    (accept : ∀ u : State, exec (decodeCommand x) (u.withChip c) = .next (u.withChip c').respondWritten)
    (rest : List HostLine) : (s.driven (cmdLine x :: rest) c out w).Leads (s.driven rest c' out true) := by
  refine State.leads_line hs idle ?_
  rintro _ ⟨rsp, vars, rfl⟩
  have accepted := accept ((s.driven (cmdLine x :: rest) c out w).varied rsp vars)
  refine ⟨_, issueLine_wr32_of_ok rest accepted rfl, some ⟨none, false⟩, vars, ?_⟩
  rw [HostAgent.afterWrite_command _ hx]
  rfl

/-- With the block idle, a WAIT reads STATUS once, and the host waits no longer. -/
theorem State.leads_wait (hs : s.Serving) (idle : c.busy = false) (rest : List HostLine) :
    (s.driven (.wait :: rest) c out w).Leads (s.driven rest c out false) := by
  have hbit : c.statusWord.getLsbD 0 = false := c.statusWord_getLsbD_zero.trans idle
  refine State.leads_line hs idle ?_
  rintro _ ⟨rsp, vars, rfl⟩
  refine ⟨_, issueLine_wait _ rest, some ⟨some c.statusWord, false⟩, assignVar .s c.statusWord vars, ?_⟩
  exact congrArg (State.withHost _) (HostAgent.afterPoll_idle (State.varied _ rsp vars).host rest hbit)

/-- The core steps of a command that takes any state with the block `c` to the same with the block `c'`. -/
theorem State.leads_core (hs : s.Serving) (lines : List HostLine)
    (run : ∀ u : State, u.agenda = [] → ∃ n, Sys2Proof.core.run n (u.withChip c) = .next (u.withChip c')) :
    (s.driven lines c out w).Leads (s.driven lines c' out w) := by
  rintro _ ⟨rsp, vars, rfl⟩
  obtain ⟨n, hn⟩ := run ((s.driven lines c out w).varied rsp vars) hs.agenda
  exact ⟨n, _, hn, _, _, rfl⟩

/-- A call whose plan is to run `lines` puts them in its place, with the output buffer empty. -/
theorem State.leads_call {call : DriverCall} {lines : List HostLine} (hs : s.Serving) (idle : c.busy = false)
    (plan : planCall call = .run lines) (rest : List HostLine) :
    (s.driven (.call call :: rest) c out w).Leads (s.driven (lines ++ rest) c [] w) := by
  refine State.leads_line hs idle ?_
  rintro _ ⟨rsp, vars, rfl⟩
  refine ⟨_, ?_, rsp, vars, rfl⟩
  simp only [issueLine, plan]
  rfl

theorem State.leads_callDone {call : DriverCall} {r : DriverResult} (hs : s.Serving) (idle : c.busy = false)
    (plan : planCall call = .done r) (rest : List HostLine) :
    (s.driven (.call call :: rest) c out w).Leads ((s.returning r).driven rest c out w) := by
  refine State.leads_line hs idle ?_
  rintro _ ⟨rsp, vars, rfl⟩
  exact ⟨_, issueLine_call_of_done rest _ plan, rsp, vars, rfl⟩

theorem State.leads_retBytes (hs : s.Serving) (idle : c.busy = false) (rest : List HostLine) :
    (s.driven (.retBytes :: rest) c out w).Leads ((s.returning (.bytes out)).driven rest c [] w) := by
  refine State.leads_line hs idle ?_
  rintro _ ⟨rsp, vars, rfl⟩
  exact ⟨_, rfl, rsp, vars, rfl⟩

theorem State.leads_retSchedule (hs : s.Serving) (idle : c.busy = false) (rest : List HostLine) :
    (s.driven (.retSchedule :: rest) c out w).Leads
      ((s.returning (.schedule (sixteens 10 out))).driven rest c [] w) := by
  refine State.leads_line hs idle ?_
  rintro _ ⟨rsp, vars, rfl⟩
  exact ⟨_, rfl, rsp, vars, rfl⟩

end Lines

/-! ## A register loaded, and a register read -/

/-- The stores of the four words of `v` at the locations `l 0` to `l 3`. -/
def Chip.loadWords (c : Chip) (l : Fin 4 → Location) (v : Block) : Chip :=
  (((c.writeWord (packWord v.w0) (l 0)).writeWord (packWord v.w1) (l 1)).writeWord (packWord v.w2) (l 2)).writeWord
    (packWord v.w3) (l 3)

/-- The four words from the offset `off` on are those at the locations `l 0` to `l 3`, and an access of each is legal. -/
def WordsAt (off : Nat) (l : Fin 4 → Location) : Prop :=
  ∀ k : Fin 4, locate (BitVec.ofNat 8 (off + 4 * k.val)) = l k ∧ badAccess (BitVec.ofNat 8 (off + 4 * k.val)) 4 = false

section Words
variable {s : State} {c : Chip} {out : List Byte} {w : Bool} {off : Nat} {l : Fin 4 → Location}

/-- Four words stored one after the other are the register stored whole. -/
theorem Reg.set_words (r : Reg) (v : Block) :
    (((r.set 0 (some (packWord v.w0))).set 1 (some (packWord v.w1))).set 2 (some (packWord v.w2))).set 3
      (some (packWord v.w3)) = Reg.ofBlock v := by
  refine Vector.ext fun i hi => ?_
  match i, hi with
  | 0, _ | 1, _ | 2, _ | 3, _ => simp [Reg.ofBlock]

theorem Chip.loadWords_key (v : Block) : c.loadWords .key v = { c with key := .ofBlock v, ksv := false } := by
  simp only [← Reg.set_words c.key v]
  rfl

/-- DIN stored whole. -/
def Chip.storeDin (c : Chip) (v : Block) : Chip := { c with din := .ofBlock v }

theorem Chip.loadWords_din (v : Block) : c.loadWords .din v = c.storeDin v := by
  rw [Chip.storeDin, ← Reg.set_words c.din v]
  rfl

theorem Chip.loadWords_rk (j : Fin 10) (v : Block) : c.loadWords (.rk j) v = (c.storeRoundKey j v).setKsv false := by
  simp [Chip.loadWords, Chip.writeWord, Chip.storeRoundKey, Chip.setKsv, ← Reg.set_words c.rk[j.val] v]

@[simp] theorem Chip.loadWords_busy (v : Block) : (c.loadWords l v).busy = c.busy := by
  simp [Chip.loadWords]

/-- The driver's literals of 16 bytes are those of their 16-byte value (20_memory R46). -/
theorem literalBytes_eq_literalWords {bs : List Byte} (h : bs.length = 16) :
    literalBytes bs = literalWords (blockOfBytes bs) :=
  match bs, h with
  | [_, _, _, _, _, _, _, _, _, _, _, _, _, _, _, _], _ => rfl

theorem bytesOfWord_packWord (x : ByteWord) : bytesOfWord (packWord x) = bytesOfByteWord x :=
  congrArg bytesOfByteWord (unpackWord_packWord x)

theorem State.leads_load (hs : s.Serving) (idle : c.busy = false) (hl : WordsAt off l)
    (hw : ∀ k, (l k).isWritable = true) {bs : List Byte} (h16 : bs.length = 16) (rest : List HostLine) :
    (s.driven (loadAt off (literalBytes bs) ++ rest) c out w).Leads
      (s.driven rest (c.loadWords l (blockOfBytes bs)) out w) := by
  rw [literalBytes_eq_literalWords h16]
  refine (State.leads_store hs idle (hl 0) (hw 0) _ _).trans
    ((State.leads_store hs ?_ (hl 1) (hw 1) _ _).trans
      ((State.leads_store hs ?_ (hl 2) (hw 2) _ _).trans (State.leads_store hs ?_ (hl 3) (hw 3) _ _)))
  all_goals simpa using idle

/-- Four reads of a register's words give the sixteen bytes of its value. -/
theorem State.leads_read {v : Block} (hs : s.Serving) (idle : c.busy = false) (hl : WordsAt off l)
    (hd : ∀ k, c.dataWord? (l k) = some (some (packWord (v.word k)))) (rest : List HostLine) :
    (s.driven (readOut off ++ rest) c out w).Leads (s.driven rest c (out ++ bytesOfBlock v) w) := by
  have word (k : Fin 4) {out : List Byte} (rest : List HostLine) :
      (s.driven (.rdOut (BitVec.ofNat 8 (off + 4 * k.val)) :: rest) c out w).Leads
        (s.driven rest c (out ++ bytesOfByteWord (v.word k)) w) := by
    rw [← bytesOfWord_packWord]
    exact State.leads_rdOut hs idle (hl k) (hd k) rest
  have four := (((word 0 (out := out) _).trans (word 1 _)).trans (word 2 _)).trans (word 3 rest)
  rw [List.append_assoc, List.append_assoc, List.append_assoc] at four
  rw [bytesOfBlock, List.append_assoc, List.append_assoc]
  exact four

end Words

/-! ## ExpandKey128 -/

section ExpandCall
variable {s : State} {c : Chip} {out : List Byte} {w : Bool} {k : Block}

/-- The reads of `n` round keys from RK[j] on give the bytes of these entries of the schedule. -/
theorem State.leads_readSchedule (hs : s.Serving) (idle : c.busy = false) (held : ∀ j, c.HoldsRoundKey k j)
    (n j : Nat) (hn : j + n ≤ 10) (out : List Byte) (rest : List HostLine) :
    (s.driven (readSchedule j n ++ rest) c out w).Leads
      (s.driven rest c (out ++ (List.range' j n).flatMap fun i => bytesOfBlock (roundKey k i)) w) := by
  induction n generalizing j out with
  | zero => simpa [readSchedule] using State.Leads.refl _
  | succ n ih =>
    have held' := held ⟨j, by omega⟩
    have hd (i : Fin 4) : c.dataWord? (.rk ⟨j, by omega⟩ i) = some (some (packWord ((roundKey k j).word i))) := by
      unfold Chip.HoldsRoundKey at held'
      rw [Chip.dataWord?, held', expandKey128_getElem]
      fin_cases i <;> rfl
    rw [readSchedule, List.append_assoc, List.range'_succ, List.flatMap_cons, ← List.append_assoc out]
    exact (State.leads_read hs idle (locate_rk ⟨j, by omega⟩) hd _).trans (ih (j + 1) (by omega) _)

/-- What the driver has read is the schedule, cut into pieces of sixteen bytes. -/
theorem sixteens_roundKeys (k : Block) :
    sixteens 10 ((List.range' 0 10).flatMap fun i => bytesOfBlock (roundKey k i)) = bytesOfSchedule (expandKey128 k) := by
  have count : ((List.range' 0 10).flatMap fun i => bytesOfBlock (roundKey k i)).length / 16 = 10 := by
    simp [List.length_flatMap]
  have pieces := blocksOfBytes_flatMap (fun i => length_bytesOfBlock (roundKey k i)) (List.range' 0 10)
  rw [blocksOfBytes, count] at pieces
  exact pieces

/-- The end of a driver ExpandKey128: the whole schedule read and returned (44_host_access R152). -/
theorem State.leads_returnSchedule (hs : s.Serving) (idle : c.busy = false) (held : ∀ j, c.HoldsRoundKey k j) :
    (s.driven (readSchedule 0 10 ++ [.retSchedule]) c [] w).Leads
      ((s.returning (.schedule (bytesOfSchedule (expandKey128 k)))).driven [] c [] w) := by
  have read := State.leads_readSchedule (w := w) hs idle held 10 0 le_rfl [] [.retSchedule]
  rw [List.nil_append] at read
  rw [← sixteens_roundKeys]
  exact read.trans (State.leads_retSchedule hs idle [])

/-- An EXPAND that has run to its end has written every round key of its key. -/
theorem Chip.expanded_holdsRoundKey (j : Fin 10) : (c.expanded k).HoldsRoundKey k j := Vector.getElem_map _ j.isLt

/-- An EXPAND's command and WAIT, with KEY loaded, leave the schedule of KEY (41_key_expansion R119). -/
theorem State.leads_expand (hs : s.Serving) (idle : c.busy = false) (key : c.key = .ofBlock k) (rest : List HostLine) :
    (s.driven (cmdLine 1 :: .wait :: rest) c out w).Leads
      (s.driven rest ((c.start .expand).expanded k) out false) := by
  have value : c.key.block? = some k := by rw [key, Reg.block?_ofBlock]
  have written : c.key.isWritten = true := by rw [key, Reg.isWritten_ofBlock]
  refine (State.leads_command (c' := c.start .expand) hs idle (by decide) (fun u => ?_) _).trans
    ((State.leads_core hs _ fun u ha => ?_).trans (State.leads_wait hs rfl rest))
  · exact (exec_expand_idle idle).trans (congrArg _ (State.expandCommand_of_written written))
  · exact ⟨_, expandRunWritesSchedule (u.withChip (c.start .expand)) k ha rfl rfl rfl value⟩

theorem planCall_expandKey128 {key : List Byte} (hk : key.length = 16) : planCall (.expandKey128 key) =
    .run (ldKey (literalBytes key) ++ (cmdLine 1 :: .wait :: (readSchedule 0 10 ++ [.retSchedule]))) := by
  simp [planCall, planExpandKey, expandKeyLines, hk]

theorem State.leads_expandKey128 {key : List Byte} (hs : s.Serving) (idle : c.busy = false) (hk : key.length = 16) :
    ∃ c', c'.busy = false ∧ (s.driven [.call (.expandKey128 key)] c out w).Leads
      ((s.returning (.schedule (bytesOfSchedule (expandKey128 (blockOfBytes key))))).driven [] c' [] false) := by
  have loaded : (c.loadWords .key (blockOfBytes key)).key = .ofBlock (blockOfBytes key) := by rw [Chip.loadWords_key]
  refine ⟨((c.loadWords .key (blockOfBytes key)).start .expand).expanded (blockOfBytes key), rfl, ?_⟩
  refine (State.leads_call hs idle (planCall_expandKey128 hk) []).trans ?_
  rw [List.append_nil]
  refine (State.leads_load hs idle locate_key (fun _ => rfl) hk _).trans ?_
  refine (State.leads_expand hs ((Chip.loadWords_busy _).trans idle) loaded _).trans ?_
  exact State.leads_returnSchedule hs rfl Chip.expanded_holdsRoundKey

end ExpandCall

/-! ## Encrypt and Decrypt -/

section CipherCall
variable {s : State} {c : Chip} {out : List Byte} {w : Bool} {k : Block} {rk : Vector Block 10} {cmd : HostWord} {m : Mode}
  {f : Block → Vector Block 10 → Block → Block}

/-- What the driver's lines need to know of a cipher: the command word `cmd` starts it in the mode `m`, and it runs to its
end with the result that `f` gives. -/
structure CipherRuns (cmd : HostWord) (m : Mode) (f : Block → Vector Block 10 → Block → Block) : Prop where
  starts : 1 ≤ cmd.toNat ∧ cmd.toNat ≤ 3
  accept : ∀ s : State, s.chip.busy = false → exec (decodeCommand cmd) s = .next (s.cipherCommand m)
  run : ∀ (s : State) (k p : Block) (rk : Vector Block 10), s.agenda = [] → s.chip.busy = true → s.chip.mode = m →
    s.chip.rnd = 0 → s.chip.st = some p → s.chip.key.block? = some k →
    (∀ j : Fin 10, s.chip.rk[j].block? = some rk[j]) →
    ∃ n, Sys2Proof.core.run n s = .next (s.withChip (s.chip.ciphered (f k rk p)))

theorem cipherRuns_encrypt : CipherRuns 2 .encrypt encrypt128 where
  starts := by decide
  accept _ idle := exec_encrypt_idle idle
  run s k p rk ha hb hm hr hst hk hrk := ⟨_, encryptRunWritesCiphertext s k p rk ha hb hm hr hst hk hrk⟩

theorem cipherRuns_decrypt : CipherRuns 3 .decrypt decrypt128 where
  starts := by decide
  accept _ idle := exec_decrypt_idle idle
  run s k p rk ha hb hm hr hst hk hrk := ⟨_, decryptRunWritesPlaintext s k p rk ha hb hm hr hst hk hrk⟩

/-- KEY and RK hold a key and a schedule, and the block is idle: what every block of a buffer finds (44_host_access R153). -/
structure Chip.Loaded (c : Chip) (k : Block) (rk : Vector Block 10) : Prop where
  idle : c.busy = false
  key : c.key.block? = some k
  schedule : ∀ j : Fin 10, c.rk[j].block? = some rk[j]

theorem Chip.Loaded.cipherReady (h : c.Loaded k rk) {p : Block} (din : c.din.block? = some p) : c.cipherReady = true := by
  have schedule : c.scheduleWritten = true :=
    c.scheduleWritten_iff.mpr fun j => Option.isSome_iff_exists.mpr ⟨_, h.schedule j⟩
  simp [Chip.cipherReady, Reg.isWritten, din, h.key, schedule]

/-- The block after a cipher of the data `p` in the mode `m` with the result `v`. -/
def Chip.afterBlock (c : Chip) (m : Mode) (p v : Block) : Chip :=
  (((c.storeDin p).storeSt p).start m).ciphered v

theorem Chip.Loaded.afterBlock (h : c.Loaded k rk) (p v : Block) : (c.afterBlock m p v).Loaded k rk :=
  ⟨rfl, h.key, h.schedule⟩

theorem blockLines_append (b : List Byte) (rest : List HostLine) : blockLines cmd b ++ rest =
    ldDin (literalBytes b) ++ (cmdLine cmd :: .wait :: (readOut 0x30 ++ rest)) := by
  simp [blockLines]

/-- One block through the block: its result is the four words of DOUT (44_host_access R153). -/
theorem State.leads_block (cipher : CipherRuns cmd m f) (hs : s.Serving) (loaded : c.Loaded k rk) {b : List Byte}
    (h16 : b.length = 16) (rest : List HostLine) :
    (s.driven (blockLines cmd b ++ rest) c out w).Leads
      (s.driven rest (c.afterBlock m (blockOfBytes b) (f k rk (blockOfBytes b)))
        (out ++ bytesOfBlock (f k rk (blockOfBytes b))) false) := by
  have value : (c.storeDin (blockOfBytes b)).din.block? = some (blockOfBytes b) := Reg.block?_ofBlock _
  have loaded' : (c.storeDin (blockOfBytes b)).Loaded k rk := ⟨loaded.idle, loaded.key, loaded.schedule⟩
  rw [blockLines_append]
  refine (State.leads_load hs loaded.idle locate_din (fun _ => rfl) h16 _).trans ?_
  rw [Chip.loadWords_din]
  refine (State.leads_command (c' := ((c.storeDin (blockOfBytes b)).storeSt (blockOfBytes b)).start m) hs loaded'.idle
    cipher.starts (fun u => ?_) _).trans ((State.leads_core hs _ fun u ha => ?_).trans
      ((State.leads_wait hs rfl _).trans (State.leads_read hs rfl locate_dout (fun i => ?_) rest)))
  · exact (cipher.accept (u.withChip (c.storeDin (blockOfBytes b))) loaded'.idle).trans
      (congrArg _ (State.cipherCommand_of_ready (loaded'.cipherReady value) value))
  · exact cipher.run (u.withChip _) k (blockOfBytes b) rk ha rfl rfl rfl rfl loaded.key loaded.schedule
  · fin_cases i <;> rfl

/-- The blocks of a buffer one after the other. The host waits for nothing in the end, unless it did before and the buffer
is empty. -/
theorem State.leads_blocks (cipher : CipherRuns cmd m f) (hs : s.Serving) (loaded : c.Loaded k rk) {bs : List (List Byte)}
    (h16 : ∀ b ∈ bs, b.length = 16) (rest : List HostLine) :
    ∃ c' w', c'.busy = false ∧ (w = false → w' = false) ∧
      (s.driven (bs.flatMap (blockLines cmd) ++ rest) c out w).Leads
        (s.driven rest c' (out ++ bs.flatMap fun b => bytesOfBlock (f k rk (blockOfBytes b))) w') := by
  induction bs generalizing c out w with
  | nil => exact ⟨c, w, loaded.idle, id, by simpa using State.Leads.refl _⟩
  | cons b bs ih =>
    obtain ⟨hb, hbs⟩ := List.forall_mem_cons.mp h16
    have loaded' := loaded.afterBlock (m := m) (blockOfBytes b) (f k rk (blockOfBytes b))
    obtain ⟨c', w', idle', hw', leads⟩ := ih (w := false) loaded' hbs
    refine ⟨c', w', idle', fun _ => hw' rfl, ?_⟩
    rw [List.flatMap_cons, List.flatMap_cons, List.append_assoc, ← List.append_assoc out]
    exact (State.leads_block cipher hs loaded hb _).trans leads

/-! ### The load of a schedule -/

/-- The stores of the round keys `ks` from RK[j] on, each of which clears KSV. -/
def Chip.loadSchedule (c : Chip) (j : Nat) : List (List Byte) → Chip
  | [] => c
  | b :: ks => ((c.storeRoundKey (Fin.ofNat 10 j) (blockOfBytes b)).setKsv false).loadSchedule (j + 1) ks

theorem Chip.loadSchedule_busy (ks : List (List Byte)) (c : Chip) (j : Nat) : (c.loadSchedule j ks).busy = c.busy := by
  induction ks generalizing c j with
  | nil => rfl
  | cons b ks ih => exact ih _ _

theorem Chip.loadSchedule_key (ks : List (List Byte)) (c : Chip) (j : Nat) : (c.loadSchedule j ks).key = c.key := by
  induction ks generalizing c j with
  | nil => rfl
  | cons b ks ih => exact ih _ _

theorem Chip.roundKey?_setKsv (c : Chip) (b : Bool) (i : Fin 10) : (c.setKsv b).roundKey? i = c.roundKey? i := rfl

/-- The load goes upwards from RK[j] and does not reach the round keys below. -/
theorem Chip.roundKey?_loadSchedule_of_lt (ks : List (List Byte)) (c : Chip) {j : Nat} (hj : j + ks.length ≤ 10)
    {i : Fin 10} (hi : i.val < j) : (c.loadSchedule j ks).roundKey? i = c.roundKey? i := by
  induction ks generalizing c j with
  | nil => rfl
  | cons b ks ih =>
    rw [List.length_cons] at hj
    have index : (Fin.ofNat 10 j).val = j := Nat.mod_eq_of_lt (by omega)
    rw [Chip.loadSchedule, ih _ (by omega) (by omega), Chip.roundKey?_setKsv, Chip.roundKey?_storeRoundKey]
    exact if_neg fun h => by rw [h, index] at hi; omega

theorem Chip.roundKey?_loadSchedule (ks : List (List Byte)) (c : Chip) {j n : Nat} (hj : j + ks.length ≤ 10)
    (hn : n < ks.length) {i : Fin 10} (hi : i.val = j + n) :
    (c.loadSchedule j ks).roundKey? i = some (blockOfBytes ks[n]) := by
  induction ks generalizing c j n with
  | nil => cases hn
  | cons b ks ih =>
    rw [List.length_cons] at hj hn
    rw [Chip.loadSchedule]
    cases n with
    | zero =>
      have index : i = Fin.ofNat 10 j := Fin.ext (hi.trans (Nat.mod_eq_of_lt (by omega)).symm)
      rw [Chip.roundKey?_loadSchedule_of_lt ks _ (by omega) (by omega), Chip.roundKey?_setKsv,
        Chip.roundKey?_storeRoundKey, if_pos index]
      rfl
    | succ n => exact ih _ (by omega) (by omega) (by omega)

theorem scheduleOfBytes_getElem {sched : List (List Byte)} (h : sched.length = 10) (j : Fin 10) :
    (scheduleOfBytes sched)[j] = blockOfBytes sched[j] := by
  have entry : sched[j] = sched.getD j [] := (List.getD_eq_getElem _ _ _).symm
  rw [entry]
  fin_cases j <;> rfl

theorem State.leads_ldSchedule (hs : s.Serving) (idle : c.busy = false) {j : Nat} {ks : List (List Byte)}
    (hj : j + ks.length ≤ 10) (h16 : ∀ b ∈ ks, b.length = 16) (rest : List HostLine) :
    (s.driven (ldSchedule j ks ++ rest) c out w).Leads (s.driven rest (c.loadSchedule j ks) out w) := by
  induction ks generalizing c j with
  | nil => exact State.Leads.refl _
  | cons b ks ih =>
    obtain ⟨hb, hks⟩ := List.forall_mem_cons.mp h16
    rw [List.length_cons] at hj
    have index : Fin.ofNat 10 j = ⟨j, by omega⟩ := Fin.ext (Nat.mod_eq_of_lt (by omega))
    rw [ldSchedule, List.append_assoc, Chip.loadSchedule, index, ← Chip.loadWords_rk]
    exact (State.leads_load hs idle (locate_rk ⟨j, by omega⟩) (fun _ => rfl) hb _).trans
      (ih ((Chip.loadWords_busy _).trans idle) (by omega) hks)

/-! ### The calls -/

theorem planCipher_of_legal {key : List Byte} {sched : List (List Byte)} {input : List Byte} (hk : key.length = 16)
    (hsched : scheduleShape sched = true) (hi : input.length % 16 = 0) (hne : input ≠ []) :
    planCipher cmd key sched 10 input = .run (ldKey (literalBytes key) ++ (ldSchedule 0 sched ++
      ((blocksOfBytes input).flatMap (blockLines cmd) ++ [.retBytes]))) := by
  simp [planCipher, hk, hsched, hi, hne]

/-- The block once KEY and RK are loaded. -/
theorem Chip.loaded_loadSchedule {key : List Byte} {sched : List (List Byte)} (idle : c.busy = false)
    (h10 : sched.length = 10) :
    ((c.loadWords .key (blockOfBytes key)).loadSchedule 0 sched).Loaded (blockOfBytes key) (scheduleOfBytes sched) where
  idle := by rw [Chip.loadSchedule_busy, Chip.loadWords_busy, idle]
  key := by rw [Chip.loadSchedule_key, Chip.loadWords_key, Reg.block?_ofBlock]
  schedule j := by
    rw [scheduleOfBytes_getElem h10]
    exact Chip.roundKey?_loadSchedule sched _ (by omega) (by omega) (Nat.zero_add _).symm

theorem State.leads_cipher {call : DriverCall} {key : List Byte} {sched : List (List Byte)} {input : List Byte}
    (cipher : CipherRuns cmd m f) (plan : planCall call = planCipher cmd key sched 10 input) (hs : s.Serving)
    (idle : c.busy = false) (hk : key.length = 16) (hsched : scheduleShape sched = true) (hi : input.length % 16 = 0) :
    ∃ c' out' w', c'.busy = false ∧ (w = false → w' = false) ∧ (s.driven [.call call] c out w).Leads
      ((s.returning (.bytes ((blocksOfBytes input).flatMap fun b =>
        bytesOfBlock (f (blockOfBytes key) (scheduleOfBytes sched) (blockOfBytes b))))).driven [] c' out' w') := by
  by_cases hne : input = []
  · subst hne
    exact ⟨c, out, w, idle, id, State.leads_callDone hs idle (plan.trans (planCipher_of_empty cmd hk hsched)) []⟩
  · obtain ⟨h10, h16⟩ := (scheduleShape_iff sched).mp hsched
    have loaded := Chip.loaded_loadSchedule (key := key) idle h10
    obtain ⟨c', w', idle', hw', leads⟩ := State.leads_blocks (out := []) (w := w) cipher hs loaded
      (fun b hb => length_of_mem_blocksOfBytes hi hb) [.retBytes]
    refine ⟨c', [], w', idle', hw', ?_⟩
    refine (State.leads_call hs idle (plan.trans (planCipher_of_legal hk hsched hi hne)) []).trans ?_
    rw [List.append_nil]
    refine (State.leads_load hs idle locate_key (fun _ => rfl) hk _).trans ?_
    refine (State.leads_ldSchedule hs ((Chip.loadWords_busy _).trans idle) (by omega) h16 _).trans ?_
    exact leads.trans (State.leads_retBytes hs idle' [])

end CipherCall

/-! ## The calls run to their end -/

/-- The run of `s` comes to the end of its script with `r` as the result of the driver call, the block idle and no fault or
refusal recorded; it ends good if it was clean, on the premise `settled` (44_host_access R150). -/
def State.CallReturns (s : State) (r : DriverResult) (settled : Prop) : Prop :=
  ∃ n t, Sys2Proof.core.run n s = .next t ∧ t.host.script = [] ∧ t.host.halted = false ∧ t.chip.busy = false ∧
    t.faults = s.faults ∧ t.refused = s.refused ∧ t.host.results = s.host.results ++ [r] ∧
    (settled → s.clean → t.endedGood)

/-- The premise is that the host waits for nothing in the end. -/
theorem State.callReturns {s : State} {line : HostLine} {r : DriverResult} {c : Chip} {out : List Byte} {w : Bool}
    {settled : Prop} (hs : s.Serving) (script : s.host.script = [line]) (idle : c.busy = false) (hw : settled → w = false)
    (leads : (s.driven [line] s.chip s.host.out s.host.waiting).Leads ((s.returning r).driven [] c out w)) :
    s.CallReturns r settled := by
  have start : s.driven [line] s.chip s.host.out s.host.waiting = s := by
    rw [← script]
    rfl
  rw [start] at leads
  obtain ⟨n, t, hn, rsp, vars, rfl⟩ := leads s s.like_self
  exact ⟨n, _, hn, rfl, hs.going, idle, rfl, rfl, rfl, fun h clean => ⟨⟨rfl, hs.going, hw h⟩, clean⟩⟩

/-- Settles O59: KEY is loaded, EXPAND runs to its end, and the ten round keys are read back. -/
theorem driverReturnsSchedule : Obligations.DriverReturnsSchedule := by
  intro s key ha idle hh hk script
  obtain ⟨c, idle', leads⟩ := State.leads_expandKey128 ⟨ha, hh⟩ idle hk
  have ⟨n, t, run, done, going, busy, faults, refused, results, good⟩ :=
    State.callReturns (settled := True) ⟨ha, hh⟩ script idle' (fun _ => rfl) leads
  exact ⟨n, t, run, done, going, busy, faults, refused, results, good trivial⟩

/-- Settles O58: KEY and the schedule are loaded once, and then each block of the buffer is one command, by induction on the
blocks; the two calls differ in their `CipherRuns` alone. -/
theorem driverReturnsTransformedBuffer : Obligations.DriverReturnsTransformedBuffer := by
  intro s key sched input ha idle hh hk h10 h16 hi
  have returns {cmd : HostWord} {m : Mode} {f : Block → Vector Block 10 → Block → Block} (cipher : CipherRuns cmd m f)
      {call : DriverCall} (plan : planCall call = planCipher cmd key sched 10 input)
      (script : s.host.script = [.call call]) :
      s.CallReturns (.bytes ((blocksOfBytes input).flatMap fun b =>
        bytesOfBlock (f (blockOfBytes key) (scheduleOfBytes sched) (blockOfBytes b)))) (s.host.waiting = false) := by
    obtain ⟨c, out, w, idle', hw, leads⟩ :=
      State.leads_cipher cipher plan ⟨ha, hh⟩ idle hk ((scheduleShape_iff sched).mpr ⟨h10, h16⟩) hi
    exact State.callReturns ⟨ha, hh⟩ script idle' hw leads
  exact ⟨returns cipherRuns_encrypt rfl, returns cipherRuns_decrypt rfl⟩

end Sys2Proof.Machine

/-! The statements of 60_exceptions: an operation that records a fault changes nothing else but the response, and a host
whose access gets no OK response does not go on (60_exceptions R162). -/

namespace Sys2Proof.Machine

/-! ## What a fault leaves -/

/-- `t` has the FAULTS of `s`, or is what a fault at an access leaves of `s` (60_exceptions R162). -/
def State.KeptOrFaulted (s t : State) : Prop := t.faults = s.faults ∨ ∃ f, s.FaultedTo f t

section KeptOrFaulted
variable (s : State)

theorem State.keptOrFaulted_accessFault : s.KeptOrFaulted s.accessFault := .inr ⟨_, s.faultedTo_accessFault⟩

theorem State.keptOrFaulted_busyFault : s.KeptOrFaulted s.busyFault := .inr ⟨_, s.faultedTo_busyFault⟩

theorem State.keptOrFaulted_unwrittenFault : s.KeptOrFaulted s.unwrittenFault := .inr ⟨_, s.faultedTo_unwrittenFault⟩

theorem State.keptOrFaulted_expandCommand : s.KeptOrFaulted s.expandCommand := by
  obtain ⟨-, h⟩ | ⟨-, h⟩ := s.expandCommand_cases <;> rw [h]
  · exact .inl rfl
  · exact s.keptOrFaulted_unwrittenFault

theorem State.keptOrFaulted_cipherCommand (m : Mode) : s.KeptOrFaulted (s.cipherCommand m) := by
  obtain ⟨_, -, -, -, h⟩ | ⟨-, h⟩ := s.cipherCommand_cases m <;> rw [h]
  · exact .inl rfl
  · exact s.keptOrFaulted_unwrittenFault

theorem State.keptOrFaulted_ctrlWrite (v : HostWord) : s.KeptOrFaulted (s.ctrlWrite v) := by
  obtain h | h | h | h | h | h | h := s.ctrlWrite_cases v <;> rw [h]
  · exact s.keptOrFaulted_busyFault
  · exact .inl rfl
  · exact .inl rfl
  · exact .inl rfl
  · exact s.keptOrFaulted_expandCommand
  · exact s.keptOrFaulted_cipherCommand .encrypt
  · exact s.keptOrFaulted_cipherCommand .decrypt

theorem State.keptOrFaulted_hostRead (off : BitVec 8) (size : Nat) : s.KeptOrFaulted (s.hostRead off size) := by
  obtain ⟨_, h⟩ | h | h | h := s.hostRead_cases off size <;> rw [h]
  · exact .inl rfl
  · exact s.keptOrFaulted_accessFault
  · exact s.keptOrFaulted_busyFault
  · exact s.keptOrFaulted_unwrittenFault

theorem State.keptOrFaulted_hostWrite (off : BitVec 8) (size : Nat) (x : HostWord) :
    s.KeptOrFaulted (s.hostWrite off size x) := by
  obtain ⟨-, -, h⟩ | ⟨-, -, h⟩ | h | ⟨-, h⟩ := s.hostWrite_cases off size x <;> rw [h]
  · exact .inl rfl
  · exact s.keptOrFaulted_ctrlWrite x
  · exact s.keptOrFaulted_accessFault
  · exact s.keptOrFaulted_busyFault

end KeptOrFaulted

/-- The fault of an iteration is no fault at an access, so it leaves the response too (log 6). -/
theorem exec_keptOrFaulted_or_raise (i : Instr) (s t : State) (h : exec i s = .next t) :
    s.KeptOrFaulted t ∨ t = s.raise .unwritten := by
  obtain ⟨v, rfl⟩ | ⟨off, size, rfl⟩ | ⟨off, size, x, rfl⟩ | ⟨o, rfl⟩ | rfl | rfl := exec_cases i s t h
  · exact .inl (s.keptOrFaulted_ctrlWrite v)
  · exact .inl (s.keptOrFaulted_hostRead off size)
  · exact .inl (s.keptOrFaulted_hostWrite off size x)
  · cases o with
    | none => exact .inr rfl
    | some c => exact .inl (.inl rfl)
  · exact .inl (.inl rfl)
  · exact .inl (.inl rfl)

/-- Settles O33: FAULTS differ only after a fault at an access, which returns no value, or after an iteration's fault, which
leaves the response. -/
theorem faultsChangeNothingElse : Obligations.FaultsChangeNothingElse := by
  intro i s t h hne
  obtain (kept | ⟨f, hc, -, hr, around⟩) | rfl := exec_keptOrFaulted_or_raise i s t h
  · exact absurd kept hne
  · exact ⟨hc, around, .inr hr⟩
  · exact ⟨rfl, ⟨rfl, rfl, rfl, rfl⟩, .inl rfl⟩

/-! ## The host that stopped -/

theorem exec_host (i : Instr) (s t : State) (h : exec i s = .next t) : t.host = s.host := by
  obtain ⟨-, -, hh, -⟩ | rfl := exec_sameAround_or_refuse i s t h
  · exact hh
  · rfl

theorem coreStep_host (s t : State) (h : coreStep s = .next t) : t.host = s.host := by
  unfold coreStep at h
  split at h
  · exact coreIterations_keeps (·.host = s.host) (fun u u' hu he => (exec_host _ u u' he).trans hu) _ s t rfl h
  · exact exec_host _ s t h

theorem busAccess_host (a : Access) (s t : State) (h : busAccess a s = .next t) : t.host = s.host := by
  unfold busAccess at h
  split at h
  · exact exec_host _ s t h
  · cases h
    rfl

theorem hostTurn_of_halted {s : State} (hh : s.host.halted = true) : hostTurn s = .next s := by
  simp [hostTurn, hh]

/-- Only a host event writes the host, and it does nothing where the host has stopped. -/
theorem runEvent_host_of_halted (e : Event) {s t : State} (hh : s.host.halted = true) (h : runEvent e s = .next t) :
    t.host = s.host := by
  cases e with
  | host =>
    cases (hostTurn_of_halted hh).symm.trans h
    rfl
  | access a => exact busAccess_host a s t h
  | core => exact coreStep_host s t h
  | reset =>
    cases h
    rfl

theorem step_host_of_halted {s t : State} (hh : s.host.halted = true) (h : step s = .next t) : t.host = s.host :=
  runEvent_host_of_halted (s := s.popEvent) s.nextEvent hh h

/-- Without an OK response the host stops, whatever it would have gone on with. -/
theorem hostContinue_of_not_ok (next : Option HostWord → HostAgent) {t : State}
    (h : t.rsp = none ∨ t.rsp = some ⟨none, true⟩) : hostContinue next (.next t) = .next t.haltHost := by
  obtain h | h := h <;> simp [hostContinue, h]

section Lines
variable {s t : State} {off : BitVec 8} {x : HostWord}

theorem issueLine_wr32_of_not_ok (rest : List HostLine) (ht : portAccess ⟨.write, off, 4, x⟩ s = .next t)
    (h : t.rsp = none ∨ t.rsp = some ⟨none, true⟩) : issueLine (.wr32 off (.lit x)) rest s = .next t.haltHost := by
  simp only [issueLine, HostAgent.value?, ht]
  exact hostContinue_of_not_ok _ h

theorem issueLine_rd32_of_not_ok (name : HostVar) (rest : List HostLine)
    (ht : portAccess ⟨.read, off, 4, 0⟩ s = .next t) (h : t.rsp = none ∨ t.rsp = some ⟨none, true⟩) :
    issueLine (.rd32 off name) rest s = .next t.haltHost := by
  simp only [issueLine, hostReadLine, ht]
  exact hostContinue_of_not_ok _ h

/-- The access of a line leaves the host as it was, so stopping it is the line's whole effect on the host. -/
theorem step_of_stopping_line {i : Instr} {line : HostLine} {rest : List HostLine} (he : s.nextEvent = .host)
    (hh : s.host.halted = false) (hs : s.host.script = line :: rest) (ht : exec i s.popEvent = .next t)
    (hline : issueLine line rest s.popEvent = .next t.haltHost) :
    step s = .next (t.withHost { s.host with halted := true }) := by
  have host : t.host = s.host := exec_host i s.popEvent t ht
  rw [step_of_host_line s line rest he hh hs, hline, State.haltHost, host]

end Lines

/-- Settles O55: the line's access stops the host, and no event moves the script of a host that has stopped. -/
theorem faultStopsHostProgram : Obligations.FaultStopsHostProgram := by
  intro s t off x name rest he hh access hrsp
  refine ⟨?_, fun u hu => ?_⟩
  · obtain ⟨hs, ht⟩ | ⟨hs, ht⟩ := access
    · exact step_of_stopping_line he hh hs ht (issueLine_wr32_of_not_ok rest ht hrsp)
    · exact step_of_stopping_line he hh hs ht (issueLine_rd32_of_not_ok name rest ht hrsp)
  · rw [step_host_of_halted rfl hu, State.withHost_host]

end Sys2Proof.Machine

/-! The statement of 70_reset_and_hazards about the first state (R178, R179). -/

namespace Sys2Proof.Machine

/-! ## Power-on -/

theorem Reg.unwritten_getElem (k : Fin 4) : Reg.unwritten[k] = none := by
  fin_cases k <;> rfl

theorem Chip.rk_getElem_reset (j : Fin 10) : Chip.reset.rk[j] = Reg.unwritten :=
  Vector.getElem_replicate j.isLt

theorem Chip.statusWord_reset : Chip.reset.statusWord = 0 := by
  decide

/-- Settles O36: every data word is a word of a register never written, and the rest of the state is given by `State.reset`. -/
theorem powerOnIsCleanEntry : Obligations.PowerOnIsCleanEntry := by
  refine ⟨⟨rfl, rfl, rfl⟩, fun k => ?_, rfl, rfl, rfl, rfl, rfl, rfl, Chip.statusWord_reset⟩
  have word : Reg.unwritten[k] = none := Reg.unwritten_getElem k
  exact ⟨word, word, word, fun j => (congrArg (fun r : Reg => r[k]) (Chip.rk_getElem_reset j)).trans word⟩

end Sys2Proof.Machine
